-- ==== Sys2Proof/Word.lean ====
section
/-! DEFINITION. The word types of the SIE Link Core: whole bytes on the streams (20_memory R43) and the 4-bit opcode
of a command descriptor (30_encoding R58). -/

namespace Sys2Proof

/-- `u8` (00_scope R8). -/
abbrev Byte := BitVec 8

/-- `OP[3:0]` of a command descriptor (30_encoding R58, R59). -/
abbrev OpCode := BitVec 4

/-- A real number of seconds (30_encoding R58): a rational one written out, or the real number that
`Config.realNumber n` is (log 1). -/
inductive Seconds where
  | exact (q : Rat)
  | real (n : Nat)
  deriving DecidableEq, Repr, Inhabited

end Sys2Proof
end

