-- ==== Sys2Proof/Syntax.lean ====
section
/-! DEFINITION. What the agents say to the machine: command descriptors and payloads (30_encoding R58, R63), the
instructions (every row of spec/opcode_table.json), and the moves of the Host and the Environment (00_scope R4). -/

namespace Sys2Proof

/-- The 8 payload bytes in wire order (30_encoding R63, 00_scope glossary "Payload"). -/
structure Payload where
  cmdHigh  : Byte
  cmdLow   : Byte
  dpad     : Byte
  leftX    : Byte
  leftY    : Byte
  rightX   : Byte
  rightY   : Byte
  reserved : Byte
  deriving DecidableEq, Repr, Inhabited

/-- The 9-byte WirePacket: the payload, then its CRC byte (30_encoding R63). -/
structure Packet where
  payload : Payload
  crc     : Byte
  deriving DecidableEq, Repr, Inhabited

/-- A command descriptor, the one fixed record the Host presents on the command port (30_encoding R58). -/
structure Descriptor where
  op        : OpCode
  data      : List Byte
  state     : BitVec 64
  hold      : Seconds
  angle     : Int
  intensity : Byte
  flags     : Byte
  deriving DecidableEq, Repr, Inhabited

/-- The instructions: one constructor for each row of spec/opcode_table.json. -/
inductive Instr where
  /-- CRC8, OP 0x1 (41 R95). -/
  | crc8 (data : List Byte)
  /-- BUILD_PACKET, OP 0x2 (41 R96). -/
  | buildPacket (data : List Byte)
  /-- PARSE_ACK, OP 0x3 (41 R97). -/
  | parseAck (data : List Byte)
  /-- SEND_PACKET, OP 0x4 (42 R108). -/
  | sendPacket (data : List Byte)
  /-- FORCE_SYNC, OP 0x5 (42 R115). -/
  | forceSync
  /-- SYNC, OP 0x6 (42 R116). -/
  | sync
  /-- SEND_COMMAND, OP 0x7 (42 R118). -/
  | sendCommand (state : BitVec 64)
  /-- TAP_COMMAND, OP 0x8 (42 R119). -/
  | tapCommand (state : BitVec 64) (hold : Seconds)
  /-- TEARDOWN, OP 0x9 (42 R121). -/
  | teardown
  /-- ENCODE_DPAD, OP 0xA (40 R83). -/
  | encodeDpad (flags : Byte)
  /-- POLAR_TO_CARTESIAN, OP 0xB (40 R87). -/
  | polarToCartesian (angle : Int) (intensity : Byte)
  /-- DECODE_CONTROLLER_STATE, OP 0xC (40 R90). -/
  | decodeControllerState (state : BitVec 64)
  /-- The reserved OP 0x0 (30 R61). -/
  | reserved0
  /-- The reserved OP 0xD (30 R61). -/
  | reservedD
  /-- The reserved OP 0xE (30 R61). -/
  | reservedE
  /-- The reserved OP 0xF (30 R61). -/
  | reservedF
  /-- RELEASE, the alias of SEND_COMMAND 0 (30 R77). -/
  | release
  /-- SYNC_START, transmitted: 0xFF, nine times in a row, the flush of FS0 (30 R65). -/
  | syncStart
  /-- SYNC_1, transmitted: 0x33, at FS4 (30 R65). -/
  | sync1
  /-- SYNC_2, transmitted: 0xCC, at FS6 (30 R65). -/
  | sync2
  /-- USB_ACK, received: 0x90 (30 R66). -/
  | usbAck
  /-- UPDATE_ACK, received: 0x91 (30 R66). -/
  | updateAck
  /-- UPDATE_NACK, received: 0x92 (30 R66). -/
  | updateNack
  /-- SYNC_START_ECHO, received: 0xFF (30 R66, R67). -/
  | syncStartEcho
  /-- SYNC_1_RESPONSE, received: 0xCC (30 R66, R67). -/
  | sync1Response
  /-- SYNC_OK_RESPONSE, received: 0x33 (30 R66, R67). -/
  | syncOkResponse
  /-- NO_DATA: 0x00, the value of a timed-out read, no device symbol (30 R66). -/
  | noData
  /-- WIRE_PACKET, transmitted: the 9-byte packet of a payload, at SP0 (30 R63). -/
  | wirePacket (payload : Payload)
  deriving DecidableEq, Repr

/-- The Environment's choices for one Core step (20_memory R45 to R47, 42 R112, 93 I12, I15, I16): whether the step's
primitive raises TransportError, how many bytes of a failed write reached the device, and whether a poll visit without
data ends the poll. -/
structure Draw where
  fails   : Bool
  sent    : Nat
  pollEnd : Bool
  deriving DecidableEq, Repr, Inhabited

/-- The draw under which no primitive fails (60 R150 NO_TRANSPORT_ERROR) and no poll ends early. -/
def Draw.ok : Draw := { fails := false, sent := 0, pollEnd := false }

/-- One move of one agent (00_scope R4; log 6). -/
inductive Move where
  /-- The Core takes its next step; its primitive ends as `d` says. -/
  | core (d : Draw)
  /-- The Environment appends a byte to the tail of RXF (20_memory R48). -/
  | arrive (b : Byte)
  /-- The timeout transition of a blocked read (20_memory R47). -/
  | timeout
  /-- The Host presents a descriptor on the command port (30 R74). -/
  | present (d : Descriptor)
  /-- The Host raises ABORT_REQ (10_state R37). -/
  | abort
  /-- Reset is asserted (70 R151). -/
  | reset
  /-- The Host reads its registers (10_state R36, 60 R143). -/
  | hostRead
  /-- The Host writes STATREG, which has no effect (10_state R35). -/
  | hostWriteStatReg (v : BitVec 16)
  deriving DecidableEq, Repr, Inhabited

end Sys2Proof
end

