-- ==== Sys2Proof/Machine/Constants.lean ====
section
/-! DEFINITION. The fixed constants of 00_scope R6 and R7. -/

namespace Sys2Proof.Machine

/-- CRC_POLY (00_scope R7). -/
def crcPoly : Byte := 0x07#8

/-- CRC_INIT (00_scope R7). -/
def crcInit : Byte := 0x00#8

/-- USB_ACK (00_scope R7, 30 R66). -/
def byteUsbAck : Byte := 0x90#8

/-- UPDATE_ACK (00_scope R7, 30 R66). -/
def byteUpdateAck : Byte := 0x91#8

/-- UPDATE_NACK (00_scope R7, 30 R66). -/
def byteUpdateNack : Byte := 0x92#8

/-- SYNC_START: the command byte and the response expected after the flush (00_scope R7, 30 R65, R66). -/
def byteSyncStart : Byte := 0xFF#8

/-- SYNC_1, the command byte (00_scope R7, 30 R65). -/
def byteSync1 : Byte := 0x33#8

/-- SYNC_2, the command byte (00_scope R7, 30 R65). -/
def byteSync2 : Byte := 0xCC#8

/-- RESP_SYNC_1, the response to SYNC_1 (00_scope R7, 30 R66, R67). -/
def byteRespSync1 : Byte := 0xCC#8

/-- RESP_SYNC_OK, the response to SYNC_2 (00_scope R7, 30 R66, R67). -/
def byteRespSyncOk : Byte := 0x33#8

/-- NO_DATA, the value a timed-out 1-byte read yields (00_scope R7, 10 R28). -/
def byteNoData : Byte := 0x00#8

/-- DPAD_CENTER (00_scope R7, 40 R82). -/
def dpadCenter : Byte := 0x08#8

/-- STICK_CENTER (00_scope R7, 40 R85). -/
def stickCenter : Byte := 0x80#8

/-- NEUTRAL_PAYLOAD (00_scope R7). -/
def neutralPayload : Payload :=
  { cmdHigh := 0x00#8, cmdLow := 0x00#8, dpad := dpadCenter, leftX := stickCenter, leftY := stickCenter
    rightX := stickCenter, rightY := stickCenter, reserved := 0x00#8 }

/-- The neutral ControllerState (00_scope R19). -/
def neutralState : BitVec 64 := 0x0000000000000000#64

/-- FLUSH_COUNT (00_scope R6). -/
def flushCount : Nat := 9

/-- POLL_INTERVAL, 0.100 s (00_scope R6). -/
def pollInterval : Seconds := .exact ⟨1, 10, by decide, by decide⟩

/-- TAP_GAP, 0.050 s (00_scope R6). -/
def tapGap : Seconds := .exact ⟨1, 20, by decide, by decide⟩

/-- The bytes of FORCE_SYNC's flush write, `repeat(0xFF, 9)` (30 R65). -/
def flushBytes : List Byte := List.replicate flushCount byteSyncStart

end Sys2Proof.Machine
end

