-- ==== Sys2Proof/Machine/Crc.lean ====
section
/-! DEFINITION. The CRC-8 function and the framing functions, pure (41 R93 to R97), and the byte lists of payloads and
packets (20_memory R44, 30 R63). -/

namespace Sys2Proof.Machine

/-- One bit step of the generator: shift left, and XOR the polynomial when the bit shifted out was 1 (41 R93, R94). -/
def crcBit (d : Byte) : Byte :=
  if d.msb then (d <<< 1) ^^^ crcPoly else d <<< 1

/-- `n` bit steps. -/
def crcBits : Nat → Byte → Byte
  | 0, d => d
  | n + 1, d => crcBits n (crcBit d)

/-- `CrcStep(c, b)` (41 R93). -/
def crcStep (c b : Byte) : Byte := crcBits 8 (c ^^^ b)

/-- The accumulator after the bytes `l`, from `c`, in list order (41 R95). -/
def crcFrom (c : Byte) (l : List Byte) : Byte := l.foldl crcStep c

/-- `CRC8(L)` (41 R95): initial value 0, no final XOR. -/
def crc8 (l : List Byte) : Byte := crcFrom crcInit l

/-- The payload's bytes, first on the wire first (20_memory R44, 30 R63). -/
def payloadBytes (p : Payload) : List Byte :=
  [p.cmdHigh, p.cmdLow, p.dpad, p.leftX, p.leftY, p.rightX, p.rightY, p.reserved]

/-- DATA bytes in list order, element 0 the payload's byte 0 (30 R73); only a list of 8 bytes is a payload. -/
def payloadOf : List Byte → Option Payload
  | [b0, b1, b2, b3, b4, b5, b6, b7] =>
    some { cmdHigh := b0, cmdLow := b1, dpad := b2, leftX := b3, leftY := b4, rightX := b5, rightY := b6
           reserved := b7 }
  | _ => none

/-- The packet's 9 bytes in wire order, the CRC last (20_memory R44). -/
def packetBytes (k : Packet) : List Byte := payloadBytes k.payload ++ [k.crc]

/-- `BuildPacket(p)` (41 R96). -/
def buildPacket (p : Payload) : Packet := { payload := p, crc := crc8 (payloadBytes p) }

/-- `ParseAck(b)` (41 R97). -/
def parseAck (b : Byte) : Bool := b == byteUsbAck

/-- A read's result turned into the byte RESP holds: the last byte, or NO_DATA when there is none (10 R28, 00 R10,
42 R113). -/
def lastByte (l : List Byte) : Byte := l.getLastD byteNoData

end Sys2Proof.Machine
end

