-- ==== Sys2Proof/Config.lean ====
section
/-! DEFINITION. The implementation's parameters (00_scope R6, 92 "Parameters left OPEN") and the free values. Each is
opaque and has no body: nothing can be proved of it but what its type says, so a statement holds for every value. -/

namespace Sys2Proof

/-- 40_payload_encoder R84, P2 at one angle and intensity: `x - 128` is the floor or the ceiling of
`cos(theta) 127 i / 255`, and `128 - y` of `sin(theta) 127 i / 255`, theta in degrees. -/
def PolarRounds (theta : ℝ) (i : Byte) (xy : Byte × Byte) : Prop :=
  ((xy.1.toNat : ℤ) - 128 = ⌊Real.cos (theta * Real.pi / 180) * 127 * (i.toNat : ℝ) / 255⌋ ∨
    (xy.1.toNat : ℤ) - 128 = ⌈Real.cos (theta * Real.pi / 180) * 127 * (i.toNat : ℝ) / 255⌉) ∧
  (128 - (xy.2.toNat : ℤ) = ⌊Real.sin (theta * Real.pi / 180) * 127 * (i.toNat : ℝ) / 255⌋ ∨
    128 - (xy.2.toNat : ℤ) = ⌈Real.sin (theta * Real.pi / 180) * 127 * (i.toNat : ℝ) / 255⌉)

/-- An ANGLE_OF_FIELD, a real number of degrees for each 12-bit field (00_scope R6, 40_payload_encoder R89), and an
admissible POLAR on the real angles (R84: P1 and P4 by its type, P2, P3). -/
structure PolarUnit where
  angleOfField : BitVec 12 → ℝ
  polar        : ℝ → Byte → Byte × Byte
  rounds       : ∀ theta i, PolarRounds theta i (polar theta i)
  periodic     : ∀ theta (k : ℤ) i, polar (theta + 360 * k) i = polar theta i

/-- A finite SYNC_WAIT_BOUND: B seconds, at least 0, with ceil(B / POLL_INTERVAL), the visit at which 42_link_sequencer
R112 requires the poll to end. -/
abbrev WaitBound := { b : ℝ × Nat // 0 ≤ b.1 ∧ b.2 = ⌈b.1 / (1 / 10)⌉₊ }

end Sys2Proof

namespace Sys2Proof.Config

/-- The real number a duration's name stands for. It is free: a statement about a name holds for every real (log 1). -/
opaque realNumber : Nat → ℝ

/-- READ_TIMEOUT in seconds: more than 0, or infinity (`none`) (00_scope R6, 92 D6; log 15). -/
opaque readTimeout : Option { t : ℝ // 0 < t }

/-- SYNC_WAIT_BOUND: at least 0 seconds, or infinity (`none`) (00_scope R6, 92 D7; log 15). -/
opaque syncWaitBound : Option WaitBound

/-- RX_CAPACITY: at least 1 byte, or infinity (`none`) (00_scope R6, 92 D10; log 15). -/
opaque rxCapacity : Option { n : Nat // 1 ≤ n }

/-- CRC_MAX_LEN: at least 9 bytes, or infinity (`none`) (00_scope R6, 92 D17; log 15). -/
opaque crcMaxLen : Option { n : Nat // 9 ≤ n }

/-- The stick unit: ANGLE_OF_FIELD and a POLAR on real angles that meets 40 R84. `none` stands for a unit that reads
the field as DEGREES and computes POLAR at whole degrees, its freedom being `polarChoice` (40 R89, 92 D19, D20;
log 12, 13). -/
opaque polarUnit : Option PolarUnit

/-- The freedom of the unit that computes POLAR itself: the offsets from the center it computes for an angle in degrees,
0 to 359, and an intensity, before they are held to the bounds of 40 R84 (92 D19; log 12). -/
opaque polarChoice : Rat → Byte → Int × Int

/-- DPAD_FLAGS: which bit of [3:0] each flag occupies; the flags are numbered Up 0, Right 1, Down 2, Left 3
(30 R69, 92 D21; log 14). A permutation: four distinct bits. -/
opaque dpadBits : Equiv.Perm (Fin 4)

/-- DPAD_CODE: the code 0 to 7 of each direction; the directions are numbered Up 0, UpRight 1, Right 2, DownRight 3,
Down 4, DownLeft 5, Left 6, UpLeft 7 (40 R83, 92 D21; log 14). A permutation: a bijection onto 0x00 to 0x07. -/
opaque dpadCodes : Equiv.Perm (Fin 8)

/-- What the transport's receive FIFO holds at power-on, before RX_CAPACITY bounds it (70 R152, 93 I29; log 5). -/
opaque rxfAtPowerOn : List Byte

/-- The move made when the schedule names none, fresh for each tick: any agent, any choice (60 R150, 93 I16, I17;
log 6). -/
opaque freeMove : Nat → Move

end Sys2Proof.Config

/-- The number of seconds, a real number. -/
def Sys2Proof.Seconds.value : Sys2Proof.Seconds → ℝ
  | .exact q => (q : ℝ)
  | .real n => Sys2Proof.Config.realNumber n
end

