-- ==== Sys2Proof/Machine/Polar.lean ====
section
/-! DEFINITION. The POLAR function (40 R84 to R88): the configuration's (`PolarUnit`), on real angles; and one computed
here for whole degrees, where cosine and sine are enclosed by rational bounds and the freedom (`Config.polarChoice`) is
held to the floor and the ceiling of the enclosure (log 12). -/

namespace Sys2Proof.Machine

/-- Radians in one degree, with pi to 20 decimals. -/
def radPerDeg : Rat := 314159265358979323846 / 18000000000000000000000

/-- The alternating series 1 - q / (m (m+1)) (1 - q / ((m+2) (m+3)) (...)), `n` factors deep. -/
def altSeries (q : Rat) : Nat → Nat → Rat
  | 0, _ => 1
  | n + 1, m => 1 - q / (m * (m + 1) : Nat) * altSeries q n (m + 2)

/-- cos of `r` degrees, for `r` from 0 to 90. -/
def cosQuarter (r : Rat) : Rat := altSeries ((r * radPerDeg) * (r * radPerDeg)) 14 1

/-- sin of `r` degrees, for `r` from 0 to 90. -/
def sinQuarter (r : Rat) : Rat := (r * radPerDeg) * altSeries ((r * radPerDeg) * (r * radPerDeg)) 14 2

/-- The quadrant of an angle in 0 to 360. -/
def quadrant (t : Rat) : Int := (t / 90).floor

/-- cos of an angle `t` in degrees, 0 to 360, by its quadrant. -/
def cosDeg (t : Rat) : Rat :=
  let r := t - 90 * quadrant t
  match quadrant t with
  | 0 => cosQuarter r
  | 1 => - sinQuarter r
  | 2 => - cosQuarter r
  | _ => sinQuarter r

/-- sin of an angle `t` in degrees, 0 to 360, by its quadrant. -/
def sinDeg (t : Rat) : Rat :=
  let r := t - 90 * quadrant t
  match quadrant t with
  | 0 => sinQuarter r
  | 1 => cosQuarter r
  | 2 => - sinQuarter r
  | _ => - cosQuarter r

/-- How far `cosDeg` and `sinDeg` may lie from the true value: nothing on the axes, where they are exact
(40 R84 "theta is a multiple of 90"). -/
def trigSlack (t : Rat) : Rat :=
  if t = 90 * quadrant t then 0 else 1 / 1000000000000000

/-- `v * 127 * i / 255` (40 R84). -/
def scaled (v : Rat) (i : Byte) : Rat := v * 127 * (i.toNat : Nat) / 255

/-- The value of `lo` to `hi` nearest `v`: `v` itself where it lies between them. -/
def clampInt (lo hi v : Int) : Int := max lo (min hi v)

/-- A cosine or sine lies in -1 to 1. -/
def clampUnit (v : Rat) : Rat := max (-1) (min 1 v)

/-- One coordinate's offset from the center: the choice, held between the floor of the enclosure's low end and the
ceiling of its high end (40 R84 P2). Both ends lie in -127 to 127 (40 R84 P1, R92). -/
def polarOffset (v slack : Rat) (i : Byte) (choice : Int) : Int :=
  clampInt (scaled (clampUnit (v - slack)) i).floor (scaled (clampUnit (v + slack)) i).ceil choice

/-- The computed POLAR whose freedom is `choice`, at an angle already taken mod 360 (40 R84): x grows to the right and
y grows downwards from the center 128; intensity 0 is the center (40 R85). At whole degrees the enclosure's floor and
ceiling are those of the exact value. -/
def polarWith (choice : Rat → Byte → Int × Int) (t : Rat) (i : Byte) : Byte × Byte :=
  if i = 0#8 then (stickCenter, stickCenter)
  else
    let k := choice t i
    (BitVec.ofInt 8 (128 + polarOffset (cosDeg t) (trigSlack t) i k.1),
     BitVec.ofInt 8 (128 - polarOffset (sinDeg t) (trigSlack t) i k.2))

/-- `POLAR(a, i)` at an integer number of degrees under a stick unit, taken mod 360 (40 R84 P3, R86); intensity 0 is
the center (40 R85). -/
def polarDegreesWith (unit : Option PolarUnit) (choice : Rat → Byte → Int × Int) (a : Int) (i : Byte) : Byte × Byte :=
  if i = 0#8 then (stickCenter, stickCenter)
  else match unit with
    | some u => u.polar ((a % 360 : Int) : ℝ) i
    | none => polarWith choice ((a % 360 : Int) : Rat) i

/-- `POLAR(ANGLE_OF_FIELD(f), i)` under a stick unit (40 R89, R90); without one the field is read as DEGREES. -/
def polarFieldWith (unit : Option PolarUnit) (choice : Rat → Byte → Int × Int) (f : BitVec 12) (i : Byte) :
    Byte × Byte :=
  if i = 0#8 then (stickCenter, stickCenter)
  else match unit with
    | some u => u.polar (u.angleOfField f) i
    | none => polarDegreesWith none choice (f.toNat : Int) i

/-- `POLAR(a, i)` at an integer number of degrees (40 R87). -/
def polarDegrees (a : Int) (i : Byte) : Byte × Byte := polarDegreesWith Config.polarUnit Config.polarChoice a i

/-- `POLAR(ANGLE_OF_FIELD(f), i)` (40 R90). -/
def polarField (f : BitVec 12) (i : Byte) : Byte × Byte := polarFieldWith Config.polarUnit Config.polarChoice f i

/-- `rha`: to the nearest integer with ties away from zero, of a value known to within `e` (40 R88). -/
def roundHalfAway (v e : Rat) : Int :=
  if 0 ≤ v then (v + e + 1 / 2).floor else - ((-v) + e + 1 / 2).floor

/-- The choice POLAR_REF makes (40 R88); it prints the spec's vectors and is no claim about the hardware. -/
def polarRefChoice (t : Rat) (i : Byte) : Int × Int :=
  (roundHalfAway (scaled (cosDeg t) i) (scaled (trigSlack t) i),
   roundHalfAway (scaled (sinDeg t) i) (scaled (trigSlack t) i))

/-- The reading DEGREES of an angle field (40 R89): the field is the angle in degrees. -/
def angleDegrees (f : BitVec 12) : ℝ := (f.toNat : ℝ)

/-- The reading SCALED of an angle field (40 R89): the field times 360 / 4096. -/
def angleScaled (f : BitVec 12) : ℝ := (((f.toNat : Rat) * 360 / 4096 : Rat) : ℝ)

end Sys2Proof.Machine
end

