-- ==== Sys2Proof/Machine/Operands.lean ====
section
/-! DEFINITION. The operand forms: the opcodes and which use the transport (30 R60), operand validity (30 R62), the
fields of a ControllerState (30 R68), the dpad code (40 R81 to R83) and the payload of a ControllerState (40 R90). -/

namespace Sys2Proof.Machine

/-- OP of TEARDOWN (30 R60). -/
def opTeardown : OpCode := 0x9#4

/-- OP values 0x0, 0xD, 0xE and 0xF are reserved (30 R61). -/
def opReserved (op : OpCode) : Bool := op == 0x0#4 || op == 0xD#4 || op == 0xE#4 || op == 0xF#4

/-- The commands that use the transport (30 R60). -/
def opUsesTransport (op : OpCode) : Bool :=
  op == 0x4#4 || op == 0x5#4 || op == 0x6#4 || op == 0x7#4 || op == 0x8#4 || op == 0x9#4

/-- `len <= CRC_MAX_LEN` (30 R62). CRC_MAX_LEN is at least 9, so that up to 9 bytes always fit. -/
def crcLenOk (limit : Option { n : Nat // 9 ≤ n }) (len : Nat) : Bool :=
  decide (len ≤ 9) || match limit with
    | none => true
    | some m => decide (len ≤ m.1)

/-- The operand checks of 30 R62 under a value of CRC_MAX_LEN. -/
def operandsOkWith (limit : Option { n : Nat // 9 ≤ n }) (d : Descriptor) : Bool :=
  if d.op = 0x1#4 then crcLenOk limit d.data.length
  else if d.op = 0x2#4 then d.data.length == 8
  else if d.op = 0x3#4 then d.data.length == 1
  else if d.op = 0x4#4 then d.data.length == 8
  else true

/-- The operand checks of 30 R62. -/
def operandsOk (d : Descriptor) : Bool := operandsOkWith Config.crcMaxLen d

/-- The seven fields of a ControllerState (30 R68, 40 R89). -/
structure StateFields where
  low            : Byte
  high           : Byte
  dflags         : Byte
  leftIntensity  : Byte
  leftAngle      : BitVec 12
  rightIntensity : Byte
  rightAngle     : BitVec 12
  deriving DecidableEq, Repr

/-- The fields by plain slicing (30 R68, R73, 40 R89). -/
def fieldsOf (s : BitVec 64) : StateFields :=
  { low := s.extractLsb' 0 8, high := s.extractLsb' 8 8, dflags := s.extractLsb' 16 8
    leftIntensity := s.extractLsb' 24 8, leftAngle := s.extractLsb' 32 12
    rightIntensity := s.extractLsb' 44 8, rightAngle := s.extractLsb' 52 12 }

/-- The eight non-center directions (40 R81), in the order in which `Config.dpadCodes` numbers them. -/
inductive Direction where
  | up | upRight | right | downRight | down | downLeft | left | upLeft
  deriving DecidableEq, Repr

/-- The number of a direction, as `Config.dpadCodes` counts them. -/
def dirIndex : Direction → Fin 8
  | .up => 0 | .upRight => 1 | .right => 2 | .downRight => 3
  | .down => 4 | .downLeft => 5 | .left => 6 | .upLeft => 7

/-- All eight directions. -/
def allDirections : List Direction :=
  [.up, .upRight, .right, .downRight, .down, .downLeft, .left, .upLeft]

/-- The single-bit mask of the flag numbered `k` (Up 0, Right 1, Down 2, Left 3) (30 R69). -/
def flagMask (bits : Equiv.Perm (Fin 4)) (k : Fin 4) : Byte := 1#8 <<< (bits k).val

/-- The legal flag value of a direction (40 R81). -/
def dirFlags (bits : Equiv.Perm (Fin 4)) : Direction → Byte
  | .up => flagMask bits 0
  | .upRight => flagMask bits 0 ||| flagMask bits 1
  | .right => flagMask bits 1
  | .downRight => flagMask bits 2 ||| flagMask bits 1
  | .down => flagMask bits 2
  | .downLeft => flagMask bits 2 ||| flagMask bits 3
  | .left => flagMask bits 3
  | .upLeft => flagMask bits 0 ||| flagMask bits 3

/-- The dpad code of a flag field under a flag map and a code map (40 R83): 0 is the center, a legal direction has its
code, every other value is taken as the center. -/
def encodeDpadWith (bits : Equiv.Perm (Fin 4)) (codes : Equiv.Perm (Fin 8)) (f : Byte) : Byte :=
  if f = 0#8 then dpadCenter
  else if f.extractLsb' 4 4 ≠ 0#4 then dpadCenter
  else
    match allDirections.find? (fun d => dirFlags bits d == f) with
    | some d => BitVec.ofNat 8 (codes (dirIndex d)).val
    | none => dpadCenter

/-- `EncodeDpad(f)` (40 R83). -/
def encodeDpad (f : Byte) : Byte := encodeDpadWith Config.dpadBits Config.dpadCodes f

/-- The payload of a ControllerState under the encoder's parameters (40 R90). -/
def decodeStateWith (dpad : Byte → Byte) (stick : BitVec 12 → Byte → Byte × Byte) (s : BitVec 64) : Payload :=
  let f := fieldsOf s
  let l := stick f.leftAngle f.leftIntensity
  let r := stick f.rightAngle f.rightIntensity
  { cmdHigh := f.high, cmdLow := f.low, dpad := dpad f.dflags, leftX := l.1, leftY := l.2
    rightX := r.1, rightY := r.2, reserved := 0x00#8 }

/-- `Decode(STATE)` (40 R90): each angle field goes through ANGLE_OF_FIELD and POLAR (40 R89). -/
def decodeState (s : BitVec 64) : Payload :=
  decodeStateWith encodeDpad polarField s

end Sys2Proof.Machine
end

