-- ==== Sys2Proof/WellFormed.lean ====
section
/-! DEFINITION. Well-formed instructions: an assigned OP (30 R60, R61) and operands that 30 R62 accepts. An ill-formed
command still has a meaning: acceptance raises the fault the spec names. -/

namespace Sys2Proof

open Sys2Proof.Machine

/-- Well-formedness under a value of CRC_MAX_LEN (30 R61, R62). -/
def Instr.wellFormedWith (limit : Option { n : Nat // 9 ≤ n }) : Instr → Bool
  | .crc8 data => crcLenOk limit data.length
  | .buildPacket data => data.length == 8
  | .parseAck data => data.length == 1
  | .sendPacket data => data.length == 8
  | .reserved0 | .reservedD | .reservedE | .reservedF => false
  | .forceSync | .sync | .sendCommand _ | .tapCommand _ _ | .teardown | .encodeDpad _
  | .polarToCartesian _ _ | .decodeControllerState _ | .release => true
  | .syncStart | .sync1 | .sync2 | .usbAck | .updateAck | .updateNack | .syncStartEcho | .sync1Response
  | .syncOkResponse | .noData | .wirePacket _ => true

/-- Well-formedness of an instruction (30 R61, R62). -/
def Instr.wellFormed (i : Instr) : Bool := i.wellFormedWith Config.crcMaxLen

end Sys2Proof
end

