-- ==== Sys2Proof/Decode.lean ====
section
/-! DEFINITION. Decoding and encoding (30_encoding R59 to R79): command descriptors on the command port, symbols and
packets on the transmit stream, symbols on the receive side. Total; what is no instruction is rejected by name. -/

namespace Sys2Proof

open Sys2Proof.Machine

/-- What stands on one of the machine's three interfaces: a descriptor on the command port (30 R58), the bytes of one
TxWrite, or one received byte (30 R79). -/
inductive Encoded where
  | cmd (d : Descriptor)
  | tx (l : List Byte)
  | rx (b : Byte)
  deriving DecidableEq, Repr

/-- Why bytes are no instruction. -/
inductive DecodeError where
  /-- Transmitted bytes that are no symbol of 30 R65 and no packet with its CRC (30 R63). -/
  | noTransmitSymbol (l : List Byte)
  /-- A received byte that 30 R66 does not name ("any other"). -/
  | unnamedByte (b : Byte)
  deriving DecidableEq, Repr

/-- The decoder of the command port: OP alone selects the command, and the fields it does not use are ignored
(30 R58, R59, R60, R61, R75). -/
def decodeCommand (d : Descriptor) : Instr :=
  match d.op.toNat with
  | 0 => .reserved0
  | 1 => .crc8 d.data
  | 2 => .buildPacket d.data
  | 3 => .parseAck d.data
  | 4 => .sendPacket d.data
  | 5 => .forceSync
  | 6 => .sync
  | 7 => .sendCommand d.state
  | 8 => .tapCommand d.state d.hold
  | 9 => .teardown
  | 10 => .encodeDpad d.flags
  | 11 => .polarToCartesian d.angle d.intensity
  | 12 => .decodeControllerState d.state
  | 13 => .reservedD
  | 14 => .reservedE
  | _ => .reservedF

/-- The receive-side decoder, one byte at a time (30 R66, R67, R79). 0x00 reads as NO_DATA. -/
def decodeRx (b : Byte) : Option Instr :=
  if b = 0x90#8 then some .usbAck
  else if b = 0x91#8 then some .updateAck
  else if b = 0x92#8 then some .updateNack
  else if b = 0xFF#8 then some .syncStartEcho
  else if b = 0xCC#8 then some .sync1Response
  else if b = 0x33#8 then some .syncOkResponse
  else if b = 0x00#8 then some .noData
  else none

/-- A 9-byte list read as a WirePacket: 8 payload bytes and the CRC-8 of them (30 R63). -/
def decodePacket : List Byte → Option Payload
  | [b0, b1, b2, b3, b4, b5, b6, b7, c] =>
    if c = crc8 [b0, b1, b2, b3, b4, b5, b6, b7] then payloadOf [b0, b1, b2, b3, b4, b5, b6, b7] else none
  | _ => none

/-- The symbols the Core transmits (30 R63, R65). -/
def decodeTx (l : List Byte) : Option Instr :=
  if l = [0xFF#8] then some .syncStart
  else if l = [0x33#8] then some .sync1
  else if l = [0xCC#8] then some .sync2
  else (decodePacket l).map Instr.wirePacket

/-- The decoder, total on whatever stands on an interface. -/
def decode : Encoded → Except DecodeError Instr
  | .cmd d => .ok (decodeCommand d)
  | .tx l => match decodeTx l with
    | some i => .ok i
    | none => .error (.noTransmitSymbol l)
  | .rx b => match decodeRx b with
    | some i => .ok i
    | none => .error (.unnamedByte b)

/-- A descriptor with the given OP and every operand field zero or empty. -/
def Descriptor.blank (op : OpCode) : Descriptor :=
  { op := op, data := [], state := 0#64, hold := .exact 0, angle := 0, intensity := 0#8, flags := 0#8 }

/-- The descriptor an assembler emits for a command, the fields it does not use zero or empty (30 R60, R76, R77);
the wire symbols are no commands and have none. -/
def encodeCommand : Instr → Option Descriptor
  | .crc8 data => some { Descriptor.blank 0x1#4 with data := data }
  | .buildPacket data => some { Descriptor.blank 0x2#4 with data := data }
  | .parseAck data => some { Descriptor.blank 0x3#4 with data := data }
  | .sendPacket data => some { Descriptor.blank 0x4#4 with data := data }
  | .forceSync => some (Descriptor.blank 0x5#4)
  | .sync => some (Descriptor.blank 0x6#4)
  | .sendCommand state => some { Descriptor.blank 0x7#4 with state := state }
  | .tapCommand state hold => some { Descriptor.blank 0x8#4 with state := state, hold := hold }
  | .teardown => some (Descriptor.blank 0x9#4)
  | .encodeDpad flags => some { Descriptor.blank 0xA#4 with flags := flags }
  | .polarToCartesian angle intensity =>
    some { Descriptor.blank 0xB#4 with angle := angle, intensity := intensity }
  | .decodeControllerState state => some { Descriptor.blank 0xC#4 with state := state }
  | .reserved0 => some (Descriptor.blank 0x0#4)
  | .reservedD => some (Descriptor.blank 0xD#4)
  | .reservedE => some (Descriptor.blank 0xE#4)
  | .reservedF => some (Descriptor.blank 0xF#4)
  | .release => some { Descriptor.blank 0x7#4 with state := 0#64 }
  | .syncStart | .sync1 | .sync2 | .wirePacket _ => none
  | .usbAck | .updateAck | .updateNack | .syncStartEcho | .sync1Response | .syncOkResponse | .noData => none

/-- The encoder: what stands on the instruction's own interface (30 R60, R63, R65, R66). -/
def encode (i : Instr) : Encoded :=
  match i with
  | .syncStart => .tx [0xFF#8]
  | .sync1 => .tx [0x33#8]
  | .sync2 => .tx [0xCC#8]
  | .wirePacket p => .tx (packetBytes (buildPacket p))
  | .usbAck => .rx 0x90#8
  | .updateAck => .rx 0x91#8
  | .updateNack => .rx 0x92#8
  | .syncStartEcho => .rx 0xFF#8
  | .sync1Response => .rx 0xCC#8
  | .syncOkResponse => .rx 0x33#8
  | .noData => .rx 0x00#8
  | i => .cmd ((encodeCommand i).getD (Descriptor.blank 0x0#4))

/-- The core instruction an instruction's encoding is: RELEASE is SEND_COMMAND 0 and has no encoding of its own
(30 R77); every other instruction is itself. -/
def Instr.core : Instr → Instr
  | .release => .sendCommand 0#64
  | i => i

/-- DATA of a table row whose operand bytes are all zero: as many zero bytes as 30 R62 asks for (log 7). -/
def zeroData (op : OpCode) : List Byte :=
  if op = 0x2#4 ∨ op = 0x4#4 then List.replicate 8 0#8
  else if op = 0x3#4 then [0#8]
  else []

/-- Byte `k` of a number whose bit 0 is the least significant bit of byte 0. -/
def byteOfNat (w k : Nat) : Byte := BitVec.ofNat 8 (w / 2 ^ (8 * k))

/-- What the table's bits say stands on an interface (log 7): up to one byte, a value below 16 is a command's OP and
any other a received byte; nine bytes are a packet on the transmit stream. -/
def encodedOfTableWord (nbits w : Nat) : Option Encoded :=
  if nbits ≤ 8 then
    if w < 16 then
      some (.cmd { Descriptor.blank (BitVec.ofNat 4 w) with data := zeroData (BitVec.ofNat 4 w) })
    else if w < 256 then some (.rx (BitVec.ofNat 8 w))
    else none
  else if nbits = 72 then
    some (.tx [byteOfNat w 0, byteOfNat w 1, byteOfNat w 2, byteOfNat w 3, byteOfNat w 4, byteOfNat w 5,
      byteOfNat w 6, byteOfNat w 7, byteOfNat w 8])
  else none

/-- The instruction the decoder reads from a row of spec/opcode_table.json. -/
def decodeTableWord (nbits w : Nat) : Option Instr :=
  match encodedOfTableWord nbits w with
  | some e => match decode e with
    | .ok i => some i
    | .error _ => none
  | none => none

end Sys2Proof
end

