-- ==== Sys2Proof/Machine/State.lean ====
section
/-! DEFINITION. The machine's state (10_state R21, R38, R39; 20_memory R43), the reasons a step can stop, and the state
after reset (10_state R41, 70 R151). All of it is plain data. -/

namespace Sys2Proof.Machine

/-- STATUS.SYNC (10 R22). -/
inductive SyncStatus where
  | outOfSync | syncing | synced
  deriving DecidableEq, Repr

/-- STATUS.LINK (10 R23). -/
inductive LinkStatus where
  | closed | opened
  deriving DecidableEq, Repr

/-- The codes of STATUS.FAULT (60 R132); 5 to 7 are never recorded and are no value here (93 I8). -/
inductive FaultCode where
  | none | transportError | illegalCommand | linkClosed | badOperand
  deriving DecidableEq, Repr

/-- The labels of the commands' own steps (10 R30, 92 D36). -/
inductive Label where
  | s0 | f0 | y0 | y1 | y2 | c0 | t0 | t1 | t2 | t3 | t4 | d0 | d1 | e0 | k0
  deriving DecidableEq, Repr

/-- The labels of SEND_PACKET_SEQ and FORCE_SYNC_SEQ (42 R107, R111). -/
inductive SubLabel where
  | sp0 | sp1 | sp2 | fs0 | fs1 | fs2 | fs3 | fs4 | fs5 | fs6 | fs7 | fs8 | fsx
  deriving DecidableEq, Repr

/-- SEQ: IDLE, a step of the command, or a step of a sequence the command's step called, written `l/c` (10 R30). -/
inductive Seq where
  | idle
  | at (l : Label)
  | call (l : Label) (c : SubLabel)
  deriving DecidableEq, Repr

/-- FAULT_STEP: ACCEPT or the SEQ path of the failing step (10 R21, 60 R132). -/
inductive FaultStep where
  | accept
  | path (q : Seq)
  deriving DecidableEq, Repr

/-- An event of the history H (10 R39). -/
inductive Event where
  | tx (l : List Byte)
  | txFail (l : List Byte)
  | rx (l : List Byte)
  | avail (n : Nat)
  | wait (t : Seconds)
  | close
  | fault (c : FaultCode)
  | done (op : OpCode) (result : Bool)
  deriving DecidableEq, Repr

/-- The state: the Core's record (10 R21), what the Environment and the Host hold, and the schedule of moves. -/
structure State where
  /-- STATUS.SYNC (10 R22). -/
  sync : SyncStatus
  /-- STATUS.LINK (10 R23). -/
  link : LinkStatus
  /-- STATUS.BUSY (10 R24). -/
  busy : Bool
  /-- STATUS.FAULT (10 R25). -/
  fault : FaultCode
  /-- FAULT_OP (10 R21). -/
  faultOp : OpCode
  /-- FAULT_STEP (10 R21). -/
  faultStep : FaultStep
  /-- STATUS.ABORTED (10 R27). -/
  aborted : Bool
  /-- RESULT (10 R26). -/
  result : Bool
  /-- RESP (10 R28). -/
  resp : Byte
  /-- CRCACC (10 R29). -/
  crcAcc : Byte
  /-- PKTBUF (10 R31). -/
  pktBuf : Packet
  /-- SEQ (10 R30). -/
  seq : Seq
  /-- CMD, the descriptor as it was presented; none latched at reset (10 R33, R41, 30 R74). -/
  cmd : Option Descriptor
  /-- OUT_CRC (10 R32). -/
  outCrc : Byte
  /-- OUT_PKT (10 R32). -/
  outPkt : Packet
  /-- OUT_DPAD (10 R32). -/
  outDpad : Byte
  /-- OUT_XY, (x, y) (10 R32). -/
  outXY : Byte × Byte
  /-- OUT_PAYLOAD (10 R32). -/
  outPayload : Payload
  /-- TMP.NAVAIL (10 R34). Its value between commands is the model's (log 4). -/
  tmpNavail : Nat
  /-- TMP.OK1 (10 R34). Its value between commands is the model's (log 4). -/
  tmpOk1 : Bool
  /-- `ok2` of TAP_COMMAND and `ok` of TEARDOWN, held between their steps (42 R119, R121; log 3). -/
  tmpOk : Bool
  /-- The number of the visit to FS1 in the running FORCE_SYNC_SEQ (42 R112; log 3). -/
  tmpVisit : Nat
  /-- The read that SEQ names has begun and is blocked (20 R47, 60 R137 (b), R149; log 31). -/
  reading : Bool
  /-- ABORT_REQ (10 R37). -/
  abortReq : Bool
  /-- RXF, the transport's receive FIFO, head first (10 R38, 20 R43). -/
  rxf : List Byte
  /-- TX, every byte that reached the device, first byte first (20 R43, R45; log 22). -/
  tx : List Byte
  /-- H, the event history, oldest first (10 R39). -/
  hist : List Event
  /-- The descriptor the Host presents and the command port holds (30 R74). -/
  port : Option Descriptor
  /-- The model's own: the Environment's choices for the Core step in hand (log 6). -/
  draw : Draw
  /-- The model's own: the agents' next moves (log 6). -/
  sched : List Move
  /-- The model's own: how many free moves have been drawn (log 6). -/
  tick : Nat
  deriving DecidableEq, Repr

/-- Why the machine stops. The faults of the spec (60 R132) are no stops: fault entry leads to a next state. -/
inductive Fault where
  /-- Raised by a command's meaning in a state with BUSY = 1 where SEQ names no step of that command, so that no rule
  gives a step (10 R30). No run from reset reaches such a state. Safe. -/
  | noSuchStep
  deriving DecidableEq, Repr

/-- Why an instruction is refused. -/
inductive Refusal where
  /-- Raised by `exec` for an instruction that has no meaning yet. Safe. No arm of `exec` answers it now. -/
  | notModelled (mnemonic : String)
  deriving DecidableEq, Repr

/-- The outcome of a step. -/
abbrev Out := Host.Outcome State Fault Refusal

/-- `l` cut to what RXF can hold: a byte that arrives while RXF is full is lost (20 R48). -/
def boundedFifo (cap : Option { n : Nat // 1 ≤ n }) (l : List Byte) : List Byte :=
  match cap with
  | none => l
  | some n => l.take n.1

/-- The state at power-on: every element at its value of 10 R41; RXF holds whatever the transport holds (70 R152). -/
def State.reset : State :=
  { sync := .outOfSync, link := .opened, busy := false, fault := .none, faultOp := 0x0#4, faultStep := .accept
    aborted := false, result := false, resp := 0x00#8, crcAcc := 0x00#8
    pktBuf := { payload := { cmdHigh := 0#8, cmdLow := 0#8, dpad := 0#8, leftX := 0#8, leftY := 0#8, rightX := 0#8
                             rightY := 0#8, reserved := 0#8 }, crc := 0#8 }
    seq := .idle, cmd := none, outCrc := 0x00#8
    outPkt := { payload := { cmdHigh := 0#8, cmdLow := 0#8, dpad := 0#8, leftX := 0#8, leftY := 0#8, rightX := 0#8
                             rightY := 0#8, reserved := 0#8 }, crc := 0#8 }
    outDpad := 0x00#8, outXY := (0x00#8, 0x00#8)
    outPayload := { cmdHigh := 0#8, cmdLow := 0#8, dpad := 0#8, leftX := 0#8, leftY := 0#8, rightX := 0#8
                    rightY := 0#8, reserved := 0#8 }
    tmpNavail := 0, tmpOk1 := false, tmpOk := false, tmpVisit := 0, reading := false, abortReq := false
    rxf := boundedFifo Config.rxCapacity Config.rxfAtPowerOn
    tx := [], hist := [], port := none, draw := Draw.ok, sched := [], tick := 0 }

end Sys2Proof.Machine
end

