-- ==== Sys2Proof/Machine/Flags.lean ====
section
/-! DEFINITION. The status word and what the Host may read (10_state R22, R35, R36, 60 R132). -/

namespace Sys2Proof.Machine

/-- The 2-bit encoding of STATUS.SYNC (10 R22). -/
def syncBits : SyncStatus → BitVec 2
  | .outOfSync => 0#2
  | .syncing => 1#2
  | .synced => 2#2

/-- STATUS.LINK's bit: 1 Open, 0 Closed (10 R35). -/
def linkBit : LinkStatus → BitVec 1
  | .opened => 1#1
  | .closed => 0#1

/-- The 3-bit codes of STATUS.FAULT (60 R132). -/
def faultBits : FaultCode → BitVec 3
  | .none => 0#3
  | .transportError => 1#3
  | .illegalCommand => 2#3
  | .linkClosed => 3#3
  | .badOperand => 4#3

/-- STATREG (10 R35): SYNC in [1:0], LINK [2], BUSY [3], RESULT [4], ABORTED [5], 0 in [7:6], FAULT in [10:8], 0 in
[15:11]. -/
def State.statReg (s : State) : BitVec 16 :=
  0#5 ++ faultBits s.fault ++ 0#2 ++ BitVec.ofBool s.aborted ++ BitVec.ofBool s.result ++ BitVec.ofBool s.busy ++
    linkBit s.link ++ syncBits s.sync

/-- The registers the Host can read: every element of 10 R21 but SEQ, CMD, CRCACC, PKTBUF and TMP.* (10 R36). -/
structure HostView where
  statReg    : BitVec 16
  sync       : SyncStatus
  link       : LinkStatus
  busy       : Bool
  fault      : FaultCode
  faultOp    : OpCode
  faultStep  : FaultStep
  aborted    : Bool
  result     : Bool
  resp       : Byte
  outCrc     : Byte
  outPkt     : Packet
  outDpad    : Byte
  outXY      : Byte × Byte
  outPayload : Payload
  abortReq   : Bool
  deriving DecidableEq, Repr

/-- What the Host reads (10 R36). -/
def State.hostView (s : State) : HostView :=
  { statReg := s.statReg, sync := s.sync, link := s.link, busy := s.busy, fault := s.fault, faultOp := s.faultOp
    faultStep := s.faultStep, aborted := s.aborted, result := s.result, resp := s.resp, outCrc := s.outCrc
    outPkt := s.outPkt, outDpad := s.outDpad, outXY := s.outXY, outPayload := s.outPayload, abortReq := s.abortReq }

end Sys2Proof.Machine
end

