-- ==== Sys2Proof/Machine/Ops.lean ====
section
/-! DEFINITION. The shared operations: completion, fault entry and the taking of an ABORT (60 R134, R138), acceptance
(30 R74), the transport primitives (20 R45 to R50), the called sequences (42 R107, R111) and the frame every command's
step runs in. -/

namespace Sys2Proof.Machine

/-! ### Small updates -/

/-- Append an event to H (10 R39). -/
def State.log (e : Event) (s : State) : State := { s with hist := s.hist ++ [e] }

/-- SEQ <- q (00 R9). -/
def State.goto (q : Seq) (s : State) : State := { s with seq := q }

/-- CMD.OP. -/
def State.cmdOp (s : State) : OpCode :=
  match s.cmd with
  | some d => d.op
  | none => 0x0#4

/-- The executing command is TEARDOWN. -/
def State.inTeardown (s : State) : Bool := s.busy && s.cmdOp == opTeardown

/-- An ABORT is pending where 60 R137 lets the Core take it: not while TEARDOWN executes. -/
def State.abortDue (s : State) : Bool := s.abortReq && !s.inTeardown

/-- The last step of a command (30 R74): RESULT, BUSY, SEQ and DONE. TEARDOWN's completion also clears an ABORT_REQ
raised while it ran (60 R137). DESIGN CHOICE: TMP keeps the values the command left, which 10 R34 calls unspecified
between commands (log 4). -/
def State.complete (ok : Bool) (s : State) : State :=
  { s with result := ok, busy := false, seq := .idle
           abortReq := s.abortReq && !(s.cmdOp == opTeardown)
           hist := s.hist ++ [.done s.cmdOp ok] }

/-! ### Taking an exception -/

/-- Record a fault: only the first is kept (60 R134, 10 R25); FAULT(code) is appended by every fault entry (90 C19). -/
def State.recordFault (c : FaultCode) (at_ : FaultStep) (s : State) : State :=
  let s := s.log (.fault c)
  if s.fault = .none then { s with fault := c, faultOp := s.cmdOp, faultStep := at_ } else s

/-- SEQ is inside TEARDOWN's step D0 (60 R134). -/
def seqInD0 : Seq → Bool
  | .at .d0 => true
  | .call .d0 _ => true
  | _ => false

/-- The end of a faulted command (60 R134): RESULT 0, SEQ IDLE, BUSY 0, DONE(op, 0). -/
def State.endFaulted (s : State) : State :=
  { s with result := false, seq := .idle, busy := false, hist := s.hist ++ [.done s.cmdOp false] }

/-- Fault entry by a TransportError of the step SEQ names (60 R133, R134): SYNC becomes OutOfSync (42 R106 ST7);
inside TEARDOWN's D0 the command goes on at D1 with ok false, any other command ends. -/
def State.transportError (s : State) : State :=
  let s1 := { s.recordFault .transportError (.path s.seq) with sync := .outOfSync, reading := false }
  if seqInD0 s.seq then { s1 with tmpOk := false, seq := .at .d1 } else s1.endFaulted

/-- Fault entry by an acceptance check (60 R132, R134). -/
def State.acceptFault (c : FaultCode) (s : State) : State := (s.recordFault c .accept).endFaulted

/-- Take an ABORT (60 R138): the executing command, if any, ends with RESULT 0, and TEARDOWN begins. There is no return
from it, nor from a fault (60 R142). -/
def State.takeAbort (s : State) : State :=
  let s1 := if s.busy then { s with result := false, hist := s.hist ++ [.done s.cmdOp false] } else s
  { s1 with abortReq := false, aborted := true, sync := .outOfSync, reading := false
            cmd := some (Descriptor.blank opTeardown), busy := true, seq := .call .d0 .sp0 }

/-! ### The command port -/

/-- The Host presents a descriptor: an empty port holds it; a port that holds one already is not presented another
(30 R74, 60 R143; log 16). -/
def State.presentOnPort (d : Descriptor) (s : State) : State :=
  match s.port with
  | none => { s with port := some d }
  | some _ => s

/-- The first step of each command's rule (30 R74; log 2). -/
def firstStep (op : OpCode) : Seq :=
  match op.toNat with
  | 1 => .at .k0
  | 2 => .at .k0
  | 3 => .at .k0
  | 4 => .call .s0 .sp0
  | 5 => .call .f0 .fs0
  | 6 => .call .y0 .sp0
  | 7 => .call .c0 .sp0
  | 8 => .call .t0 .sp0
  | 9 => .call .d0 .sp0
  | 10 => .at .e0
  | 11 => .at .e0
  | 12 => .at .e0
  | _ => .idle

/-- The descriptor the Host presents to an idle Core with the command `i`: the one the port holds, as it stands, where
that is this command; else the assembler's, `d`, presented now (30 R58, R74; log 11). -/
def State.offered (i : Instr) (d : Descriptor) (s : State) : Descriptor :=
  match s.port with
  | some p => if decodeCommand p = i then p else d
  | none => d

/-- The port once the command `i` is accepted: an accepted descriptor leaves it (30 R74). -/
def State.portAfter (i : Instr) (s : State) : Option Descriptor :=
  if s.port.map decodeCommand = some i then none else s.port

/-- Acceptance of a descriptor by an idle Core, the checks in the order of 30 R74 (60 R139). The descriptor stays held
where an ABORT is taken first; accepted, it is latched and leaves the port as `rest`. -/
def State.accept (d : Descriptor) (rest : Option Descriptor) (s : State) : State :=
  if s.abortReq then (s.presentOnPort d).takeAbort
  else
    let s1 := { s with cmd := some d, busy := true, port := rest }
    if s.fault ≠ .none ∧ d.op ≠ opTeardown then s1.endFaulted
    else if opReserved d.op then s1.acceptFault .illegalCommand
    else if opUsesTransport d.op ∧ d.op ≠ opTeardown ∧ s.link = .closed then s1.acceptFault .linkClosed
    else if operandsOk d then s1.goto (firstStep d.op)
    else s1.acceptFault .badOperand

/-- The bytes `RxRead` of the step `c` asks for; `none` where the step is no read (20 R53). -/
def State.readNeed (c : SubLabel) (s : State) : Option Nat :=
  match c with
  | .sp1 | .fs5 | .fs7 => some 1
  | .fs3 => some s.tmpNavail
  | _ => none

/-- The read in progress has its outcome: its TransportError, or the bytes it waits for (20 R47). -/
def State.readHasOutcome (s : State) : Bool :=
  s.reading && match s.seq with
    | .call _ c => match s.readNeed c with
      | some n => s.draw.fails || decide (n ≤ s.rxf.length)
      | none => false
    | _ => false

/-- The frame of every command's Core step. An idle Core accepts the command. A Core that executes the command takes a
due ABORT first (60 R137 (a) to (c)), unless a read in progress has its outcome, which comes before the ABORT is looked
at (60 R139); otherwise it does the step `body` that SEQ names. A Core that executes another command holds the
descriptor (30 R74). `i` is the command, `d` the assembler's descriptor of it (log 11, 18). -/
def runCommand (i : Instr) (d : Descriptor) (body : State → Out) (s : State) : Out :=
  if s.busy then
    if s.cmd.map decodeCommand = some i then
      if s.abortDue && !s.readHasOutcome then .next s.takeAbort else body s
    else .next (s.presentOnPort d)
  else .next (s.accept (s.offered i d) (s.portAfter i))

/-! ### The transport primitives -/

/-- `TxWrite(L)`, then `k` (20 R45). A failed write sends the prefix the draw names (93 I15). -/
def State.txWrite (l : List Byte) (k : State → State) (s : State) : State :=
  if s.draw.fails then { s with tx := s.tx ++ l.take s.draw.sent, hist := s.hist ++ [Event.txFail l] }.transportError
  else k { s with tx := s.tx ++ l, hist := s.hist ++ [.tx l] }

/-- `RxAvail()`, then `k` with the count (20 R46). -/
def State.rxAvail (k : Nat → State → State) (s : State) : State :=
  if s.draw.fails then s.transportError
  else k s.rxf.length (s.log (.avail s.rxf.length))

/-- Where a read's step goes with the byte RESP now holds (42 R107, R111, R114). -/
def afterRead (c : SubLabel) (resp : Byte) : SubLabel :=
  match c with
  | .sp1 => .sp2
  | .fs3 => if resp = byteSyncStart then .fs4 else .fsx
  | .fs5 => if resp = byteRespSync1 then .fs6 else .fsx
  | .fs7 => if resp = byteRespSyncOk then .fs8 else .fsx
  | c => c

/-- A read of the step `o/c` returns the first `n` bytes of RXF (20 R47): they leave RXF, H gets RX, RESP gets the last
of them or NO_DATA, and SEQ moves on. -/
def State.readReturns (o : Label) (c : SubLabel) (n : Nat) (s : State) : State :=
  let l := s.rxf.take n
  { s with rxf := s.rxf.drop n, hist := s.hist ++ [.rx l], resp := lastByte l, reading := false
           seq := .call o (afterRead c (lastByte l)) }

/-- `RxRead(n, READ_TIMEOUT)` in the step `o/c` (20 R47): it may raise TransportError, removing nothing; it returns when
RXF holds n bytes; otherwise the Core is blocked in it, and nothing else changes (60 R149). -/
def State.rxRead (o : Label) (c : SubLabel) (n : Nat) (s : State) : State :=
  if s.draw.fails then s.transportError
  else if n ≤ s.rxf.length then s.readReturns o c n
  else { s with reading := true }

/-- The Core is blocked in a read: the step, and how many bytes it asks for (20 R47). -/
def State.blockedRead (s : State) : Option (Label × SubLabel) :=
  match s.seq with
  | .call o c =>
    match s.readNeed c with
    | some n => if s.busy && s.reading && decide (s.rxf.length < n) then some (o, c) else none
    | none => none
  | _ => none

/-- The timeout transition of a blocked read under a value of READ_TIMEOUT (20 R47): with a finite timeout it returns
all the bytes RXF holds, fewer than were asked for; with an infinite one there is no such transition. It is an outcome
of the read, so a pending ABORT is looked at only after it: the model's reading of
60 R139, which names the TransportError (log 25). -/
def State.readTimesOutWith (timeout : Option { t : ℝ // 0 < t }) (s : State) : State :=
  match s.blockedRead, timeout with
  | some (o, c), some _ => s.readReturns o c s.rxf.length
  | _, _ => s

/-- The timeout transition of a blocked read (20 R47). -/
def State.readTimesOut (s : State) : State := s.readTimesOutWith Config.readTimeout

/-- `Wait(t)`, one step (00 R11), then SEQ moves to `q`. -/
def State.waitThen (t : Seconds) (q : Seq) (s : State) : State := (s.log (.wait t)).goto q

/-- `Close()` (20 R50). -/
def State.closeLink (s : State) : State := { s with link := .closed, hist := s.hist ++ [.close] }

/-- One byte fits in RXF under a value of RX_CAPACITY; the capacity is at least 1 (20 R48). -/
def rxFits (cap : Option { n : Nat // 1 ≤ n }) (len : Nat) : Bool :=
  decide (len = 0) || match cap with
    | none => true
    | some n => decide (len < n.1)

/-- The Environment appends a byte to the tail of RXF; a byte that arrives while RXF is full is lost (20 R48). -/
def State.arriveWith (cap : Option { n : Nat // 1 ≤ n }) (b : Byte) (s : State) : State :=
  if rxFits cap s.rxf.length then { s with rxf := s.rxf ++ [b] } else s

/-- The Environment appends a byte to the tail of RXF (20 R48). -/
def State.arrive (b : Byte) (s : State) : State := s.arriveWith Config.rxCapacity b

/-! ### SEND_PACKET_SEQ (42 R107) -/

/-- SP0 within the step `o`: PKTBUF gets the packet, and its 9 bytes are written. -/
def State.stepSp0 (o : Label) (p : Payload) (s : State) : State :=
  { s with pktBuf := buildPacket p, crcAcc := (buildPacket p).crc }.txWrite (packetBytes (buildPacket p))
    (State.goto (.call o .sp1))

/-- SP2: the verdict on RESP and the write of STATUS.SYNC (42 R106 ST5, ST6), then the caller's continuation. -/
def State.stepSp2 (ret : Bool → State → State) (s : State) : State :=
  let ok := parseAck s.resp
  ret ok { s with sync := if ok then .synced else .outOfSync }

/-- The step `o/c` of SEND_PACKET_SEQ(p), returning to `ret`. -/
def sendSeq (o : Label) (p : Payload) (ret : Bool → State → State) (c : SubLabel) (s : State) : Out :=
  match c with
  | .sp0 => .next (s.stepSp0 o p)
  | .sp1 => .next (s.rxRead o .sp1 1)
  | .sp2 => .next (s.stepSp2 ret)
  | _ => .fault .noSuchStep

/-! ### FORCE_SYNC_SEQ (42 R111) -/

/-- FS0: STATUS.SYNC <- Syncing (42 R106 ST2) and the flush. The visits to FS1 are numbered from 0 (42 R112). -/
def State.stepFs0 (o : Label) (s : State) : State :=
  { s with sync := .syncing, tmpVisit := 0 }.txWrite flushBytes (State.goto (.call o .fs1))

/-- The poll ends at visit `j` without data (42 R112): never under an infinite bound; under a finite one where the draw
says so, and at the latest at visit ceil(B / P), which the parameter holds beside B. -/
def pollEndsWith (bound : Option WaitBound) (ends : Bool) (j : Nat) : Bool :=
  match bound with
  | none => false
  | some b => ends || decide (b.1.2 ≤ j)

/-- FS1: one visit of the poll (42 R111, R112). -/
def State.stepFs1With (bound : Option WaitBound) (o : Label) (s : State) : State :=
  s.rxAvail (fun n t =>
    if 0 < n then { t with tmpNavail := n, seq := .call o .fs3 }
    else if pollEndsWith bound s.draw.pollEnd s.tmpVisit then { t with resp := byteNoData, seq := .call o .fsx }
    else t.goto (.call o .fs2))

/-- FS2: the poll's wait; the next visit has the next number (42 R111, R112). -/
def State.stepFs2 (o : Label) (s : State) : State :=
  { s with tmpVisit := s.tmpVisit + 1 }.waitThen pollInterval (.call o .fs1)

/-- FS4: SYNC_1. -/
def State.stepFs4 (o : Label) (s : State) : State := s.txWrite [byteSync1] (State.goto (.call o .fs5))

/-- FS6: SYNC_2. -/
def State.stepFs6 (o : Label) (s : State) : State := s.txWrite [byteSync2] (State.goto (.call o .fs7))

/-- The step `o/c` of FORCE_SYNC_SEQ(), returning to `ret`. -/
def syncSeq (o : Label) (ret : Bool → State → State) (c : SubLabel) (s : State) : Out :=
  match c with
  | .fs0 => .next (s.stepFs0 o)
  | .fs1 => .next (s.stepFs1With Config.syncWaitBound o)
  | .fs2 => .next (s.stepFs2 o)
  | .fs3 => .next (s.rxRead o .fs3 s.tmpNavail)
  | .fs4 => .next (s.stepFs4 o)
  | .fs5 => .next (s.rxRead o .fs5 1)
  | .fs6 => .next (s.stepFs6 o)
  | .fs7 => .next (s.rxRead o .fs7 1)
  | .fs8 => .next (ret true { s with sync := .synced })
  | .fsx => .next (ret false { s with sync := .outOfSync })
  | _ => .fault .noSuchStep

/-! ### Transmitted symbols -/

/-- The payload the executing command's current send carries (42 R107, R108, R116, R118, R119, R121). -/
def State.sendPayload (s : State) : Option Payload :=
  match s.seq, s.cmd with
  | .call .s0 _, some d => payloadOf d.data
  | .call .c0 _, some d => some (decodeState d.state)
  | .call .t0 _, some d => some (decodeState d.state)
  | .call .y0 _, _ => some neutralPayload
  | .call .y2 _, _ => some neutralPayload
  | .call .t2 _, _ => some neutralPayload
  | .call .d0 _, _ => if s.link = .closed then none else some neutralPayload
  | _, _ => none

/-- The Core transmits a symbol or a packet exactly at the step whose rule writes it, and in no other context
(30 R65; log 9). At that step a due ABORT is taken first (60 R137). -/
def transmitAt (here : Label → SubLabel → Bool) (send : Label → State → State) (s : State) : Out :=
  match s.seq with
  | .call o c =>
    if s.busy && here o c then
      if s.abortDue then .next s.takeAbort else .next (send o s)
    else .next s
  | _ => .next s

/-- The steps that call FORCE_SYNC_SEQ: F0 and Y1 (42 R115, R116). -/
def callsSync : Label → Bool
  | .f0 => true
  | .y1 => true
  | _ => false

/-! ### Reset -/

/-- Reset (70 R151): every Core element at its value of 10 R41, H empty; RXF and what was sent stay, and so do the
descriptor on the port and the agents' schedule, which are not the Core's (70 R152; log 17). -/
def State.resetCore (s : State) : State :=
  { State.reset with rxf := s.rxf, tx := s.tx, port := s.port, draw := s.draw, sched := s.sched, tick := s.tick }

end Sys2Proof.Machine
end

