-- ==== Sys2Proof/Machine/Encoder.lean ====
section
/-! DEFINITION. The payload encoder's family: ENCODE_DPAD, POLAR_TO_CARTESIAN, DECODE_CONTROLLER_STATE
(40_payload_encoder). Each is pure and has the one step E0 after acceptance (40 R80). -/

namespace Sys2Proof.Machine

/-- E0 of ENCODE_DPAD (40 R83). -/
def stepEncodeDpad (flags : Byte) (s : State) : Out :=
  match s.seq with
  | .at .e0 => .next ({ s with outDpad := encodeDpad flags }.complete true)
  | _ => .fault .noSuchStep

/-- ENCODE_DPAD, OP 0xA (40 R83). -/
def execEncodeDpad (flags : Byte) (s : State) : Out :=
  runCommand (.encodeDpad flags) { Descriptor.blank 0xA#4 with flags := flags } (stepEncodeDpad flags) s

/-- E0 of POLAR_TO_CARTESIAN (40 R87): the integer angle is reduced mod 360 and given to POLAR. -/
def stepPolarToCartesian (angle : Int) (intensity : Byte) (s : State) : Out :=
  match s.seq with
  | .at .e0 => .next ({ s with outXY := polarDegrees (angle % 360) intensity }.complete true)
  | _ => .fault .noSuchStep

/-- POLAR_TO_CARTESIAN, OP 0xB (40 R87). -/
def execPolarToCartesian (angle : Int) (intensity : Byte) (s : State) : Out :=
  runCommand (.polarToCartesian angle intensity)
    { Descriptor.blank 0xB#4 with angle := angle, intensity := intensity }
    (stepPolarToCartesian angle intensity) s

/-- E0 of DECODE_CONTROLLER_STATE (40 R90). -/
def stepDecodeControllerState (state : BitVec 64) (s : State) : Out :=
  match s.seq with
  | .at .e0 => .next ({ s with outPayload := decodeState state }.complete true)
  | _ => .fault .noSuchStep

/-- DECODE_CONTROLLER_STATE, OP 0xC (40 R90). -/
def execDecodeControllerState (state : BitVec 64) (s : State) : Out :=
  runCommand (.decodeControllerState state) { Descriptor.blank 0xC#4 with state := state }
    (stepDecodeControllerState state) s

end Sys2Proof.Machine
end

