-- ==== Sys2Proof/Machine/Framing.lean ====
section
/-! DEFINITION. The framing family: CRC8, BUILD_PACKET, PARSE_ACK (41_crc_framing). Each is pure and has the one step
K0 after acceptance. -/

namespace Sys2Proof.Machine

/-- K0 of CRC8 (41 R95): CRCACC and OUT_CRC get the CRC of DATA, RESULT 1. -/
def stepCrc8 (data : List Byte) (s : State) : Out :=
  match s.seq with
  | .at .k0 => .next ({ s with crcAcc := crc8 data, outCrc := crc8 data }.complete true)
  | _ => .fault .noSuchStep

/-- CRC8, OP 0x1 (41 R95). -/
def execCrc8 (data : List Byte) (s : State) : Out :=
  runCommand (.crc8 data) { Descriptor.blank 0x1#4 with data := data } (stepCrc8 data) s

/-- K0 of BUILD_PACKET (41 R96): PKTBUF and OUT_PKT get DATA and its CRC, RESULT 1. -/
def stepBuildPacket (data : List Byte) (s : State) : Out :=
  match s.seq, payloadOf data with
  | .at .k0, some p =>
    .next ({ s with crcAcc := (buildPacket p).crc, pktBuf := buildPacket p, outPkt := buildPacket p }.complete true)
  | _, _ => .fault .noSuchStep

/-- BUILD_PACKET, OP 0x2 (41 R96). -/
def execBuildPacket (data : List Byte) (s : State) : Out :=
  runCommand (.buildPacket data) { Descriptor.blank 0x2#4 with data := data } (stepBuildPacket data) s

/-- K0 of PARSE_ACK (41 R97): RESULT gets the verdict on DATA[0]. -/
def stepParseAck (data : List Byte) (s : State) : Out :=
  match s.seq, data with
  | .at .k0, [b] => .next (s.complete (parseAck b))
  | _, _ => .fault .noSuchStep

/-- PARSE_ACK, OP 0x3 (41 R97). -/
def execParseAck (data : List Byte) (s : State) : Out :=
  runCommand (.parseAck data) { Descriptor.blank 0x3#4 with data := data } (stepParseAck data) s

end Sys2Proof.Machine
end

