-- ==== Sys2Proof/Machine/Reserved.lean ====
section
/-! DEFINITION. The reserved OP values (30 R61): acceptance raises ILLEGAL_COMMAND (60 R132). No rule gives them a step
after acceptance, for acceptance ends them. -/

namespace Sys2Proof.Machine

/-- A reserved OP has no step (30 R61, R74). -/
def stepReserved (_ : State) : Out := .fault .noSuchStep

/-- The reserved OP 0x0 (30 R61). -/
def execReserved0 (s : State) : Out := runCommand .reserved0 (Descriptor.blank 0x0#4) stepReserved s

/-- The reserved OP 0xD (30 R61). -/
def execReservedD (s : State) : Out := runCommand .reservedD (Descriptor.blank 0xD#4) stepReserved s

/-- The reserved OP 0xE (30 R61). -/
def execReservedE (s : State) : Out := runCommand .reservedE (Descriptor.blank 0xE#4) stepReserved s

/-- The reserved OP 0xF (30 R61). -/
def execReservedF (s : State) : Out := runCommand .reservedF (Descriptor.blank 0xF#4) stepReserved s

end Sys2Proof.Machine
end

