-- ==== Sys2Proof/Machine/Sequencer.lean ====
section
/-! DEFINITION. The link family: SEND_PACKET, FORCE_SYNC, SYNC, SEND_COMMAND, TAP_COMMAND, TEARDOWN and the alias
RELEASE (42_link_sequencer; 30 R77). One label is one Core step. -/

namespace Sys2Proof.Machine

/-- S0 of SEND_PACKET (42 R108). -/
def stepSendPacket (data : List Byte) (s : State) : Out :=
  match s.seq, payloadOf data with
  | .call .s0 c, some p => sendSeq .s0 p State.complete c s
  | _, _ => .fault .noSuchStep

/-- SEND_PACKET, OP 0x4 (42 R108). -/
def execSendPacket (data : List Byte) (s : State) : Out :=
  runCommand (.sendPacket data) { Descriptor.blank 0x4#4 with data := data } (stepSendPacket data) s

/-- F0 of FORCE_SYNC (42 R115). -/
def stepForceSync (s : State) : Out :=
  match s.seq with
  | .call .f0 c => syncSeq .f0 State.complete c s
  | _ => .fault .noSuchStep

/-- FORCE_SYNC, OP 0x5 (42 R115). -/
def execForceSync (s : State) : Out :=
  runCommand .forceSync (Descriptor.blank 0x5#4) stepForceSync s

/-- After Y0's send (42 R116): acknowledged, SYNC is done; otherwise FORCE_SYNC_SEQ is called at Y1. -/
def afterY0 (ok : Bool) (s : State) : State :=
  if ok then { s with tmpOk1 := ok }.complete true else { s with tmpOk1 := ok, seq := .call .y1 .fs0 }

/-- After Y1's handshake (42 R116): failed, SYNC is done with 0; otherwise the confirm packet is sent at Y2. -/
def afterY1 (ok : Bool) (s : State) : State :=
  if ok then { s with seq := .call .y2 .sp0 } else s.complete false

/-- Y0, Y1, Y2 of SYNC (42 R116). -/
def stepSync (s : State) : Out :=
  match s.seq with
  | .call .y0 c => sendSeq .y0 neutralPayload afterY0 c s
  | .call .y1 c => syncSeq .y1 afterY1 c s
  | .call .y2 c => sendSeq .y2 neutralPayload State.complete c s
  | _ => .fault .noSuchStep

/-- SYNC, OP 0x6 (42 R116). -/
def execSync (s : State) : Out :=
  runCommand .sync (Descriptor.blank 0x6#4) stepSync s

/-- C0 of SEND_COMMAND (42 R118). -/
def stepSendCommand (state : BitVec 64) (s : State) : Out :=
  match s.seq with
  | .call .c0 c => sendSeq .c0 (decodeState state) State.complete c s
  | _ => .fault .noSuchStep

/-- SEND_COMMAND, OP 0x7 (42 R118). -/
def execSendCommand (state : BitVec 64) (s : State) : Out :=
  runCommand (.sendCommand state) { Descriptor.blank 0x7#4 with state := state } (stepSendCommand state) s

/-- RELEASE, the alias: an assembler emits OP 0x7 with STATE = 0, so its steps are SEND_COMMAND 0's (30 R77; log 8). -/
def execRelease (s : State) : Out :=
  runCommand (.sendCommand neutralState) { Descriptor.blank 0x7#4 with state := neutralState }
    (stepSendCommand neutralState) s

/-- T0 to T4 of TAP_COMMAND (42 R119): press, wait TAP_GAP, release, wait HOLD, AND of the two verdicts. -/
def stepTapCommand (state : BitVec 64) (hold : Seconds) (s : State) : Out :=
  match s.seq with
  | .call .t0 c => sendSeq .t0 (decodeState state) (fun ok t => { t with tmpOk1 := ok, seq := .at .t1 }) c s
  | .at .t1 => .next (s.waitThen tapGap (.call .t2 .sp0))
  | .call .t2 c => sendSeq .t2 neutralPayload (fun ok t => { t with tmpOk := ok, seq := .at .t3 }) c s
  | .at .t3 => .next (s.waitThen hold (.at .t4))
  | .at .t4 => .next (s.complete (s.tmpOk1 && s.tmpOk))
  | _ => .fault .noSuchStep

/-- TAP_COMMAND, OP 0x8 (42 R119). -/
def execTapCommand (state : BitVec 64) (hold : Seconds) (s : State) : Out :=
  runCommand (.tapCommand state hold) { Descriptor.blank 0x8#4 with state := state, hold := hold }
    (stepTapCommand state hold) s

/-- D0 and D1 of TEARDOWN (42 R121, R122): on a closed link it is done at once with 0 and sends nothing (log 20);
otherwise the neutral packet is attempted and the link is closed whatever came of it. -/
def stepTeardown (s : State) : Out :=
  match s.seq with
  | .call .d0 c =>
    if c = .sp0 ∧ s.link = .closed then .next (s.complete false)
    else sendSeq .d0 neutralPayload (fun ok t => { t with tmpOk := ok, seq := .at .d1 }) c s
  | .at .d1 => .next (s.closeLink.complete s.tmpOk)
  | _ => .fault .noSuchStep

/-- TEARDOWN, OP 0x9 (42 R121). -/
def execTeardown (s : State) : Out :=
  runCommand .teardown (Descriptor.blank 0x9#4) stepTeardown s

end Sys2Proof.Machine
end

