-- ==== Sys2Proof/Machine/Wire.lean ====
section
/-! DEFINITION. The wire symbols (30 R63 to R67, R79). A transmitted symbol is the Core's step that writes it (log 9); a
received symbol is its arrival in RXF, where the read that takes it judges it by its own rule (log 10). -/

namespace Sys2Proof.Machine

/-- SYNC_START: the flush of nine 0xFF at FS0 (30 R65, 42 R110, R111). -/
def execSyncStart (s : State) : Out :=
  transmitAt (fun o c => callsSync o && c == .fs0) (fun o t => t.stepFs0 o) s

/-- SYNC_1: 0x33 alone at FS4 (30 R65, 42 R111). -/
def execSync1 (s : State) : Out :=
  transmitAt (fun o c => callsSync o && c == .fs4) (fun o t => t.stepFs4 o) s

/-- SYNC_2: 0xCC alone at FS6 (30 R65, 42 R111). -/
def execSync2 (s : State) : Out :=
  transmitAt (fun o c => callsSync o && c == .fs6) (fun o t => t.stepFs6 o) s

/-- WIRE_PACKET: the 9 bytes of a payload's packet at SP0 of the send that carries this payload (30 R63, 42 R107). -/
def execWirePacket (payload : Payload) (s : State) : Out :=
  transmitAt (fun _ c => c == .sp0 && s.sendPayload == some payload) (fun o t => t.stepSp0 o payload) s

/-- USB_ACK arrives (30 R66). -/
def execUsbAck (s : State) : Out := .next (s.arrive byteUsbAck)

/-- UPDATE_ACK arrives (30 R66). -/
def execUpdateAck (s : State) : Out := .next (s.arrive byteUpdateAck)

/-- UPDATE_NACK arrives (30 R66). -/
def execUpdateNack (s : State) : Out := .next (s.arrive byteUpdateNack)

/-- The SYNC_START echo arrives (30 R66, R67). -/
def execSyncStartEcho (s : State) : Out := .next (s.arrive byteSyncStart)

/-- The SYNC_1 response arrives (30 R66, R67). -/
def execSync1Response (s : State) : Out := .next (s.arrive byteRespSync1)

/-- The SYNC_OK response arrives (30 R66, R67). -/
def execSyncOkResponse (s : State) : Out := .next (s.arrive byteRespSyncOk)

/-- NO_DATA: a blocked read times out (30 R66, 20 R47); no device symbol, so nothing arrives. -/
def execNoData (s : State) : Out := .next s.readTimesOut

end Sys2Proof.Machine
end

