-- ==== Sys2Proof/Machine/Dispatch.lean ====
section
/-! DEFINITION. One arm for each instruction. -/

namespace Sys2Proof.Machine

/-- The meaning of each instruction of spec/opcode_table.json. -/
def exec (i : Instr) (s : State) : Host.Outcome State Fault Refusal :=
  match i with
  | .crc8 data => Sys2Proof.Machine.execCrc8 data s
  | .buildPacket data => Sys2Proof.Machine.execBuildPacket data s
  | .parseAck data => Sys2Proof.Machine.execParseAck data s
  | .sendPacket data => Sys2Proof.Machine.execSendPacket data s
  | .forceSync => Sys2Proof.Machine.execForceSync s
  | .sync => Sys2Proof.Machine.execSync s
  | .sendCommand state => Sys2Proof.Machine.execSendCommand state s
  | .tapCommand state hold => Sys2Proof.Machine.execTapCommand state hold s
  | .teardown => Sys2Proof.Machine.execTeardown s
  | .encodeDpad flags => Sys2Proof.Machine.execEncodeDpad flags s
  | .polarToCartesian angle intensity => Sys2Proof.Machine.execPolarToCartesian angle intensity s
  | .decodeControllerState state => Sys2Proof.Machine.execDecodeControllerState state s
  | .reserved0 => Sys2Proof.Machine.execReserved0 s
  | .reservedD => Sys2Proof.Machine.execReservedD s
  | .reservedE => Sys2Proof.Machine.execReservedE s
  | .reservedF => Sys2Proof.Machine.execReservedF s
  | .release => Sys2Proof.Machine.execRelease s
  | .syncStart => Sys2Proof.Machine.execSyncStart s
  | .sync1 => Sys2Proof.Machine.execSync1 s
  | .sync2 => Sys2Proof.Machine.execSync2 s
  | .usbAck => Sys2Proof.Machine.execUsbAck s
  | .updateAck => Sys2Proof.Machine.execUpdateAck s
  | .updateNack => Sys2Proof.Machine.execUpdateNack s
  | .syncStartEcho => Sys2Proof.Machine.execSyncStartEcho s
  | .sync1Response => Sys2Proof.Machine.execSync1Response s
  | .syncOkResponse => Sys2Proof.Machine.execSyncOkResponse s
  | .noData => Sys2Proof.Machine.execNoData s
  | .wirePacket payload => Sys2Proof.Machine.execWirePacket payload s

end Sys2Proof.Machine
end

