-- ==== Sys2Proof/Machine/Moves.lean ====
section
/-! DEFINITION. The moves of the agents (00_scope R4): which move comes next, which instruction it runs, and what a
move that runs none does (log 6, 18, 21). -/

namespace Sys2Proof.Machine

/-- The next move and the state once it is drawn: the schedule's head, or a free move when the schedule is empty
(log 6). -/
def State.nextMove (s : State) : Move × State :=
  match s.sched with
  | m :: rest => (m, { s with sched := rest })
  | [] => (Config.freeMove s.tick, { s with tick := s.tick + 1 })

/-- The named symbol that arrives with a byte; 0x00 is no device symbol and other bytes have no name (30 R66). -/
def arrivalInstr (b : Byte) : Option Instr :=
  if b = byteNoData then none else decodeRx b

/-- The instruction a move runs, and the state it runs in. A Core's move runs the executing command, or, on an idle
Core, the command the port holds; a byte's arrival runs its symbol; a timeout runs NO_DATA. -/
def fetchInstr (m : Move) (s : State) : Option (Instr × State) :=
  match m with
  | .core d =>
    if s.busy then s.cmd.map (fun c => (decodeCommand c, { s with draw := d }))
    else s.port.map (fun c => (decodeCommand c, { s with draw := d }))
  | .arrive b => (arrivalInstr b).map (fun i => (i, s))
  | .timeout => some (.noData, s)
  | _ => none

/-- What a move that runs no instruction does: an idle Core with an empty port takes a pending ABORT or waits
(60 R137 (d), 70 R151); an unnamed byte arrives (20 R48); the Host presents, raises ABORT_REQ, reads, or writes STATREG
without effect (10 R35 to R37, 30 R74); reset is asserted (70 R151). A busy Core with no command latched has no
step. -/
def otherMove (m : Move) (s : State) : Out :=
  match m with
  | .core d =>
    if s.busy then .fault .noSuchStep
    else if s.abortReq then .next ({ s with draw := d }.takeAbort)
    else .next { s with draw := d }
  | .arrive b => .next (s.arrive b)
  | .timeout => .next s
  | .present d => .next (s.presentOnPort d)
  | .abort => .next { s with abortReq := true }
  | .reset => .next s.resetCore
  | .hostRead => .next s
  | .hostWriteStatReg _ => .next s

/-- One move. -/
def runMove (m : Move) (s : State) : Out :=
  match fetchInstr m s with
  | some (i, t) => exec i t
  | none => otherMove m s

/-- The state with something placed on an interface so that the very next step runs it (log 21): a descriptor on the
port of an idle Core; the bytes of a write as the step of the command that writes them; a byte about to arrive. -/
def State.place (e : Encoded) (s : State) : State :=
  match e with
  | .cmd d =>
    { s with port := some d, busy := false, seq := .idle, reading := false, abortReq := false
             sched := .core Draw.ok :: s.sched }
  | .rx b => { s with sched := .arrive b :: s.sched }
  | .tx l =>
    match decodeTx l with
    | some .syncStart => { s with
        cmd := some (Descriptor.blank 0x5#4), busy := true, seq := .call .f0 .fs0, reading := false
        abortReq := false, sched := .core Draw.ok :: s.sched }
    | some .sync1 => { s with
        cmd := some (Descriptor.blank 0x5#4), busy := true, seq := .call .f0 .fs4, reading := false
        abortReq := false, sched := .core Draw.ok :: s.sched }
    | some .sync2 => { s with
        cmd := some (Descriptor.blank 0x5#4), busy := true, seq := .call .f0 .fs6, reading := false
        abortReq := false, sched := .core Draw.ok :: s.sched }
    | some (.wirePacket p) => { s with
        cmd := some { Descriptor.blank 0x4#4 with data := payloadBytes p }, busy := true, seq := .call .s0 .sp0
        reading := false, abortReq := false, sched := .core Draw.ok :: s.sched }
    | _ => s

end Sys2Proof.Machine
end

