-- ==== Sys2Proof/Machine/Step.lean ====
section
/-! DEFINITION. One step of the machine: the next move of the agents (00_scope R4, R5). -/

namespace Sys2Proof.Machine

/-- One step: the next move, drawn from the schedule or free. -/
def step (s : State) : Host.Outcome State Fault Refusal :=
  runMove s.nextMove.1 s.nextMove.2

/-- The state whose very next step runs the table row's instruction (log 21). -/
def State.withFetchWord (s : State) (nbits w : Nat) : State :=
  match encodedOfTableWord nbits w with
  | some e => s.place e
  | none => s

end Sys2Proof.Machine
end

