-- ==== Sys2Proof/Machine/Text.lean ====
section
/-! DEFINITION. The textual form of commands and programs (30 R76): the mnemonic, then its operands. -/

namespace Sys2Proof.Machine

/-- One hexadecimal digit. -/
def hexDigit (n : Nat) : Char := (['0', '1', '2', '3', '4', '5', '6', '7', '8', '9', 'A', 'B', 'C', 'D', 'E', 'F']).getD n '?'

/-- `n` hexadecimal digits of a number, the most significant first. -/
def hexDigits : Nat → Nat → List Char
  | 0, _ => []
  | n + 1, v => hexDigits n (v / 16) ++ [hexDigit (v % 16)]

/-- A bare two-digit byte. -/
def hexByte (b : Byte) : String := String.ofList (hexDigits 2 b.toNat)

/-- A byte list in brackets. -/
def hexList (l : List Byte) : String := "[" ++ ",".intercalate (l.map hexByte) ++ "]"

/-- A 64-bit hexadecimal literal. -/
def hexState (s : BitVec 64) : String := "0x" ++ String.ofList (hexDigits 16 s.toNat)

/-- A command's text (30 R76); a reserved OP, a wire symbol and a HOLD that is not written out have none.
DESIGN CHOICE: a HOLD is written as a whole number or a fraction num/den, for which R76 gives no form and 95 section 5
writes decimals such as 0.1 (log 32). -/
def instrText : Instr → Option String
  | .crc8 data => some ("CRC8 " ++ hexList data)
  | .buildPacket data => some ("BUILD_PACKET " ++ hexList data)
  | .parseAck [b] => some ("PARSE_ACK 0x" ++ hexByte b)
  | .parseAck _ => none
  | .sendPacket data => some ("SEND_PACKET " ++ hexList data)
  | .forceSync => some "FORCE_SYNC"
  | .sync => some "SYNC"
  | .sendCommand state => some ("SEND_COMMAND " ++ hexState state)
  | .tapCommand state (.exact hold) => some ("TAP_COMMAND " ++ hexState state ++ ", " ++ toString hold)
  | .tapCommand _ (.real _) => none
  | .teardown => some "TEARDOWN"
  | .encodeDpad flags => some ("ENCODE_DPAD 0x" ++ hexByte flags)
  | .polarToCartesian angle intensity =>
    some ("POLAR_TO_CARTESIAN " ++ toString angle ++ ", " ++ toString intensity.toNat)
  | .decodeControllerState state => some ("DECODE_CONTROLLER_STATE " ++ hexState state)
  | .release => some "RELEASE"
  | .reserved0 | .reservedD | .reservedE | .reservedF => none
  | .syncStart | .sync1 | .sync2 | .wirePacket _ => none
  | .usbAck | .updateAck | .updateNack | .syncStartEcho | .sync1Response | .syncOkResponse | .noData => none

/-- A program is a list of commands the Host presents in order (30 R76). -/
abbrev Program := List Instr

/-- The descriptors of a program's commands (30 R76, 95 section 5). -/
def programDescriptors (p : Program) : List Descriptor := p.filterMap encodeCommand

end Sys2Proof.Machine
end

