-- ==== Sys2Proof/Machine/Device.lean ====
section
/-! DEFINITION. The named premises about the Environment (60 R150, 20 R47), each a restriction of the moves; the run
of a Host program under any of them, and its end (70 R164). `step` does not use this file (log 29). -/

namespace Sys2Proof.Machine

/-- The premises a claim states, each on its own or with others (60 R150). -/
structure Premises where
  /-- NO_TRANSPORT_ERROR: no primitive fails. -/
  noTransportError : Bool
  /-- ACKS(b1, b2, ...), with the entries still to come; `none` where the claim does not state it. -/
  acks             : Option (List (Option Byte))
  /-- ECHO_SYNC: the flush and the two handshake bytes are answered. -/
  echoSync         : Bool
  /-- RESPONDS_IN_TIME: no read times out while a response is owed (20 R47). -/
  respondsInTime   : Bool
  deriving DecidableEq, Repr

/-- No premise: every move of the Environment is allowed (60 R150). -/
def Premises.free : Premises := { noTransportError := false, acks := none, echoSync := false, respondsInTime := false }

/-- A device script is stated: only the bytes it owes arrive (60 R150). -/
def Premises.scripted (pr : Premises) : Bool := pr.acks.isSome || pr.echoSync

/-- What the script owes for one completed write, and the premises after it (60 R150). The flush and the handshake bytes
are no packets and take no entry of ACKS; after the last entry nothing is owed. -/
def Premises.answers (pr : Premises) (l : List Byte) : List Byte × Premises :=
  if l = flushBytes then (if pr.echoSync then [byteSyncStart] else [], pr)
  else if l = [byteSync1] then (if pr.echoSync then [byteRespSync1] else [], pr)
  else if l = [byteSync2] then (if pr.echoSync then [byteRespSyncOk] else [], pr)
  else match pr.acks with
    | some (a :: rest) => (a.toList, { pr with acks := some rest })
    | _ => ([], pr)

/-- What the script owes for a list of writes, in their order (60 R150). -/
def Premises.owes : Premises → List (List Byte) → List Byte × Premises
  | pr, [] => ([], pr)
  | pr, l :: ls =>
    let a := pr.answers l
    let r := a.2.owes ls
    (a.1 ++ r.1, r.2)

/-- The writes a list of events holds. -/
def writesOf : List Event → List (List Byte)
  | [] => []
  | .tx l :: es => l :: writesOf es
  | _ :: es => writesOf es

/-- The machine in a run of a Host program under the premises: the descriptors the Host has still to present, the bytes
the script owes, and the machine's state. -/
structure Bench where
  premises : Premises
  program  : List Descriptor
  owed     : List Byte
  st       : State
  deriving DecidableEq, Repr

/-- The run of a Host program begins, with nothing owed (30 R76, 70 R164). -/
def Bench.start (pr : Premises) (p : Program) (s : State) : Bench :=
  { premises := pr, program := programDescriptors p, owed := [], st := s }

/-- The moves the premises and the program keep. An owed byte is in RXF before the Core's next step, and under a
script no other byte arrives (60 R150); while one is owed no read times out (20 R47); the Host presents its program in
order, each descriptor on an empty port after the previous command has completed (30 R74, R76), and may raise ABORT,
read, or assert reset at any time (60 R143). -/
def Bench.allows (b : Bench) : Move → Bool
  | .core d => !(b.premises.noTransportError && d.fails) && b.owed.isEmpty
  | .arrive x => !b.premises.scripted || b.owed.head? == some x
  | .timeout => !b.premises.respondsInTime || b.owed.isEmpty
  | .present d => b.program.head? == some d && b.st.port.isNone && !b.st.busy
  | .abort => true
  | .reset => true
  | .hostRead => true
  | .hostWriteStatReg _ => true

/-- The descriptors still to present after a move. -/
def Bench.programAfter (b : Bench) : Move → List Descriptor
  | .present _ => b.program.tail
  | _ => b.program

/-- The bytes still owed after a move, but for what the move's own write owes. DESIGN CHOICE: an owed byte that arrives
while RXF is full is lost (20 R48) and is owed no longer, so the Core goes on without it; 60 R150 does not say what a
full RXF does to a script (log 29). -/
def Bench.owedAfter (b : Bench) : Move → List Byte
  | .arrive _ => b.owed.tail
  | _ => b.owed

/-- One move of a run; `none` where the premises or the program exclude the move or the machine stops. -/
def Bench.step (m : Move) (b : Bench) : Option Bench :=
  if b.allows m then
    match runMove m b.st with
    | .next t =>
      let r := b.premises.owes (writesOf (t.hist.drop b.st.hist.length))
      some { premises := r.2, program := b.programAfter m, owed := b.owedAfter m ++ r.1, st := t }
    | _ => none
  else none

/-- A run by a list of moves. -/
def Bench.run : List Move → Bench → Option Bench
  | [], b => some b
  | m :: ms, b => match b.step m with
    | some c => c.run ms
    | none => none

/-- The run has ended: the Host has presented its last descriptor, that command has completed, and no ABORT is pending
(70 R164). -/
def Bench.ended (b : Bench) : Bool :=
  b.program.isEmpty && b.st.port.isNone && !b.st.busy && b.st.seq == .idle && !b.st.abortReq

/-- The run is final: it has ended, with no fault (70 R164). -/
def Bench.final (b : Bench) : Bool := b.ended && b.st.fault == .none

end Sys2Proof.Machine
end

