-- ==== Sys2Proof/Safety.lean ====
section
/-! DEFINITION. What the claims are about: sequences of instructions, the states in which a command begins, the
invariant of the machine, and the events that say a run was safe. -/

namespace Sys2Proof

/-- The opcode table of 30 R60: the OP of each command; RELEASE is emitted with SEND_COMMAND's (30 R77); a wire symbol
is no command. -/
def Instr.opcode : Instr → Option OpCode
  | .crc8 _ => some 0x1#4
  | .buildPacket _ => some 0x2#4
  | .parseAck _ => some 0x3#4
  | .sendPacket _ => some 0x4#4
  | .forceSync => some 0x5#4
  | .sync => some 0x6#4
  | .sendCommand _ => some 0x7#4
  | .tapCommand _ _ => some 0x8#4
  | .teardown => some 0x9#4
  | .encodeDpad _ => some 0xA#4
  | .polarToCartesian _ _ => some 0xB#4
  | .decodeControllerState _ => some 0xC#4
  | .reserved0 => some 0x0#4
  | .reservedD => some 0xD#4
  | .reservedE => some 0xE#4
  | .reservedF => some 0xF#4
  | .release => some 0x7#4
  | .syncStart | .sync1 | .sync2 | .wirePacket _ => none
  | .usbAck | .updateAck | .updateNack | .syncStartEcho | .sync1Response | .syncOkResponse | .noData => none

end Sys2Proof

namespace Sys2Proof.Machine

/-- Execute instructions one after the other, stopping where one stops. -/
def runInstrs : List Instr → State → Out
  | [], s => .next s
  | i :: is, s =>
    match exec i s with
    | .next t => runInstrs is t
    | .fault r => .fault r
    | .refused r => .refused r

/-- `n` Core steps of the poll loop FS1, FS2 within the step `o`, under a value of SYNC_WAIT_BOUND (42 R111, R112). -/
def State.pollFor (bound : Option WaitBound) (o : Label) : Nat → State → State
  | 0, s => s
  | n + 1, s =>
    match s.seq with
    | .call _ .fs1 => State.pollFor bound o n (s.stepFs1With bound o)
    | .call _ .fs2 => State.pollFor bound o n (s.stepFs2 o)
    | _ => s

/-- An idle Core with no fault and no ABORT pending: the next command it accepts passes the fault gate (30 R74). -/
def State.idleReady (s : State) : Prop := s.busy = false ∧ s.fault = .none ∧ s.abortReq = false

/-- An idle Core that can run a transport command: ready, the link open, and no primitive failing (60 R150
NO_TRANSPORT_ERROR). -/
def State.linkReady (s : State) : Prop := s.idleReady ∧ s.link = .opened ∧ s.draw.fails = false

/-- The Core executes a command whose OP is `op`, at the step `q`, with no ABORT due. -/
def State.atStep (op : OpCode) (q : Seq) (s : State) : Prop :=
  s.busy = true ∧ s.cmdOp = op ∧ s.seq = q ∧ s.abortDue = false

/-! ### The invariant -/

/-- The labels of SEND_PACKET_SEQ (42 R107). -/
def isSendLabel : SubLabel → Bool
  | .sp0 | .sp1 | .sp2 => true
  | _ => false

/-- The labels of FORCE_SYNC_SEQ (42 R111). -/
def isSyncLabel (c : SubLabel) : Bool := !isSendLabel c

/-- SEQ names a step of the command `op` (10 R30; the labels of each command's rule). -/
def seqFits (op : OpCode) (q : Seq) : Bool :=
  match op.toNat, q with
  | 1, .at .k0 => true
  | 2, .at .k0 => true
  | 3, .at .k0 => true
  | 4, .call .s0 c => isSendLabel c
  | 5, .call .f0 c => isSyncLabel c
  | 6, .call .y0 c => isSendLabel c
  | 6, .call .y1 c => isSyncLabel c
  | 6, .call .y2 c => isSendLabel c
  | 7, .call .c0 c => isSendLabel c
  | 8, .call .t0 c => isSendLabel c
  | 8, .at .t1 => true
  | 8, .call .t2 c => isSendLabel c
  | 8, .at .t3 => true
  | 8, .at .t4 => true
  | 9, .call .d0 c => isSendLabel c
  | 9, .at .d1 => true
  | 10, .at .e0 => true
  | 11, .at .e0 => true
  | 12, .at .e0 => true
  | _, _ => false

/-- SEQ is IDLE exactly when no command executes, and otherwise names a step of the latched command, whose operands
passed the checks of 30 R62 (10 R24, R30, R33). -/
def SeqInv (s : State) : Prop :=
  if s.busy then ∃ d, s.cmd = some d ∧ seqFits d.op s.seq = true ∧ operandsOk d = true else s.seq = .idle

/-- FAULT_OP and FAULT_STEP are written only with STATUS.FAULT, and under a fault only TEARDOWN runs (60 R134, R135). -/
def FaultInv (s : State) : Prop :=
  (s.fault = .none → s.faultOp = 0x0#4 ∧ s.faultStep = .accept) ∧
    (s.fault ≠ .none → s.busy = true → s.inTeardown = true)

/-- STATUS.SYNC is Syncing exactly inside FORCE_SYNC_SEQ after FS0 (42 R106, 70 R165). -/
def SyncInv (s : State) : Prop :=
  s.sync = .syncing ↔ s.busy = true ∧ ∃ o c, s.seq = .call o c ∧ isSyncLabel c = true ∧ c ≠ .fs0

/-- On a closed link no transport command runs, but for a TEARDOWN that has not taken its first step (10 R23,
42 R122). -/
def LinkInv (s : State) : Prop :=
  s.link = .closed → s.busy = true → opUsesTransport s.cmdOp = true → s.seq = .call .d0 .sp0

/-- The CLOSE events since reset: one when the link is closed, none when it is open (42 R122). -/
def CloseInv (s : State) : Prop := s.hist.count .close = if s.link = .closed then 1 else 0

/-- PKTBUF and OUT_PKT hold a framed packet, OUT_PAYLOAD's byte 7 is 0 and OUT_DPAD is a dpad code (41 R96, 40 R83,
R90). -/
def OutInv (s : State) : Prop :=
  s.pktBuf = buildPacket s.pktBuf.payload ∧ s.outPkt = buildPacket s.outPkt.payload ∧
    s.outPayload.reserved = 0x00#8 ∧ s.outDpad ≤ 0x08#8

/-- RXF never holds more than RX_CAPACITY bytes (20 R48). -/
def RxInv (s : State) : Prop := ∀ cap, Config.rxCapacity = some cap → s.rxf.length ≤ cap.1

/-- At the drain, RXF still holds the bytes FS1 counted, and there is at least one (42 R113). -/
def DrainInv (s : State) : Prop := ∀ o, s.seq = .call o .fs3 → 1 ≤ s.tmpNavail ∧ s.tmpNavail ≤ s.rxf.length

/-- Only a read of one byte is ever blocked, and only of an executing command (20 R53, 42 R113; log 31). -/
def ReadInv (s : State) : Prop :=
  s.reading = true → s.busy = true ∧ ∃ o c, s.seq = .call o c ∧ (c = .sp1 ∨ c = .fs5 ∨ c = .fs7)

/-- Every write the Core made or tried is a framed packet, the flush, SYNC_1 alone or SYNC_2 alone (20 R53, 30 R65). -/
def WriteInv (s : State) : Prop :=
  ∀ l, Event.tx l ∈ s.hist ∨ Event.txFail l ∈ s.hist →
    l = flushBytes ∨ l = [byteSync1] ∨ l = [byteSync2] ∨ ∃ p, l = packetBytes (buildPacket p)

/-- Once an ABORT has been taken, its TEARDOWN runs or the link is closed (60 R138). -/
def AbortInv (s : State) : Prop := s.aborted = true → s.link = .closed ∨ s.inTeardown = true

/-- The invariant of the machine. -/
structure Inv (s : State) : Prop where
  seq   : SeqInv s
  fault : FaultInv s
  sync  : SyncInv s
  link  : LinkInv s
  close : CloseInv s
  out   : OutInv s
  rx    : RxInv s
  drain : DrainInv s
  read  : ReadInv s
  write : WriteInv s
  abort : AbortInv s

/-- `t` seconds may have passed while H's events happened: each wait lasted at least its length, and one of a length of
0 or less, like every other event, any time at all (00 R11). -/
def mayHaveTaken : List Event → ℝ → Prop
  | [], t => 0 ≤ t
  | .wait w :: es, t => ∃ u v, 0 ≤ u ∧ w.value ≤ u ∧ mayHaveTaken es v ∧ t = u + v
  | _ :: es, t => mayHaveTaken es t

end Sys2Proof.Machine
end

