-- ==== Sys2Proof/Certificates/Slice0/Obligations.lean ====
section
/-! DEFINITION. The statements for the provers, each about one state, or all states, of the machine. A statement that
gives an instruction's next state gives the whole of it, as an update of the state before: every field the update does
not name is unchanged. `offered` there is the descriptor the port holds where it is this command's, else the
assembler's (log 11), and `portAfter` the port once it has left (AcceptanceInOrder spells them out); `reading` says
that a read has begun and is blocked (log 31); `draw` and `sched` are the model's own form of the Environment's
choices and of the agents' order (log 6); a called sequence's steps stand for the calling step (log 2); what TMP holds
once a command has completed is the model's choice wherever a statement gives it or leaves it unchanged (log 4). -/

section

open Sys2Proof Sys2Proof.Machine

/-! ### Encoding -/

/-- 30_encoding R59, R60, R63, R65, R66, R75, R76, R77: decoding what an instruction's encoding puts on its interface
gives the instruction back; RELEASE, which has no opcode of its own, comes back as SEND_COMMAND 0. -/
def Obligations.DecodeEncodeAgree : Prop :=
  ∀ i : Instr, decode (encode i) = .ok i.core ∧ (i ≠ .release → i.core = i) ∧
    Instr.core .release = .sendCommand 0x0000000000000000#64

/-- 30_encoding R75, R59: every descriptor decodes, to the command its OP names, and two descriptors that decode to
instructions of one opcode have one OP; the assembler's descriptor of the decoded command decodes to it. -/
def Obligations.CommandDecoderTotal : Prop :=
  ∀ d : Descriptor, decode (.cmd d) = .ok (decodeCommand d) ∧ (decodeCommand d).opcode = some d.op ∧
    ∃ e, encodeCommand (decodeCommand d) = some e ∧ e.op = d.op ∧ decodeCommand e = decodeCommand d

/-- 30_encoding R60, R63, R65, R66, written out: descriptors, received bytes and transmitted bytes of each family. How a
table row's bits become an encoding is the model's (log 7). -/
def Obligations.WrittenWordsDecode : Prop :=
  decodeCommand { op := 0x4#4, data := [0x01#8, 0x02#8, 0x03#8, 0x04#8, 0x05#8, 0x06#8, 0x07#8, 0x08#8]
                  state := 5#64, hold := .exact 1, angle := 7, intensity := 9#8, flags := 3#8 } =
      .sendPacket [0x01#8, 0x02#8, 0x03#8, 0x04#8, 0x05#8, 0x06#8, 0x07#8, 0x08#8] ∧
    decodeTableWord 4 0x1 = some (.crc8 []) ∧ decodeTableWord 4 0x9 = some .teardown ∧
    decodeTableWord 4 0xA = some (.encodeDpad 0x00#8) ∧ decodeTableWord 4 0xD = some .reservedD ∧
    decodeTableWord 8 0x90 = some .usbAck ∧ decodeTableWord 8 0x33 = some .syncOkResponse ∧
    decodeTableWord 8 0x37 = none ∧ decode (.tx [0xCC#8]) = .ok .sync2 ∧
    decodeTableWord 72 0x540080808080080000 = some (.wirePacket neutralPayload)

/-- 30_encoding R68: the seven fields tile the 64 bits, in the order of the table, so that every bit of the state
belongs to exactly one field. -/
def Obligations.StateFieldsTile : Prop :=
  ∀ s : BitVec 64, (fieldsOf s).rightAngle ++ (fieldsOf s).rightIntensity ++ (fieldsOf s).leftAngle ++
    (fieldsOf s).leftIntensity ++ (fieldsOf s).dflags ++ (fieldsOf s).high ++ (fieldsOf s).low = s

/-! ### CRC-8 and framing -/

/-- 41_crc_framing R93, R95, R96: the zero residue, which R98 gives as the spec's own inference from them. -/
def Obligations.CrcZeroResidue : Prop :=
  (∀ p : List Byte, crc8 (p ++ [crc8 p]) = 0x00#8) ∧ ∀ p : Payload, crc8 (packetBytes (buildPacket p)) = 0x00#8

/-- 41_crc_framing R93, R95: linearity, which R99 gives as the spec's own inference from them. -/
def Obligations.CrcLinear : Prop :=
  (∀ p q : List Byte, p.length = q.length → crc8 (List.zipWith (fun a b => a ^^^ b) p q) = crc8 p ^^^ crc8 q) ∧
    ∀ (n : Nat) (p : List Byte), crc8 (List.replicate n 0x00#8 ++ p) = crc8 p

/-- 41_crc_framing R93, R95, read as R102 reads them ("from general knowledge, not in source"): CRC8(L) is congruent
to M(x) x^8 modulo x^8 + x^2 + x + 1 over GF(2), where M(x) is L read as a polynomial with L[0]'s bit 7 the highest
term; having 8 bits, it is the remainder. -/
def Obligations.CrcPolynomialRemainder : Prop :=
  ∀ (poly : List Byte → Polynomial (ZMod 2)), poly = (fun l => l.foldl (fun acc b => acc * Polynomial.X ^ 8 +
      ∑ k ∈ Finset.range 8, if b.getLsbD k then Polynomial.X ^ k else 0) 0) →
    ∀ l : List Byte, (Polynomial.X ^ 8 + Polynomial.X ^ 2 + Polynomial.X + 1 : Polynomial (ZMod 2)) ∣
      poly l * Polynomial.X ^ 8 - poly [crc8 l]

/-- 41_crc_framing R93, R95, 00_scope R7, with the values R101 derives: the reference vector, the check input, and the
neutral packet. -/
def Obligations.CrcReferenceVectors : Prop :=
  crc8 [0x00#8, 0x00#8, 0x08#8, 0x80#8, 0x80#8, 0x80#8, 0x80#8, 0x00#8] = 0x54#8 ∧
    crc8 [0x31#8, 0x32#8, 0x33#8, 0x34#8, 0x35#8, 0x36#8, 0x37#8, 0x38#8, 0x39#8] = 0xF4#8 ∧
    packetBytes (buildPacket neutralPayload) =
      [0x00#8, 0x00#8, 0x08#8, 0x80#8, 0x80#8, 0x80#8, 0x80#8, 0x00#8, 0x54#8]

/-- 41_crc_framing R96: a packet without its last byte is the payload, and the CRC recomputed over it is that byte,
which R100 gives as the spec's own inference. -/
def Obligations.FrameRoundTrip : Prop :=
  ∀ p : Payload, (packetBytes (buildPacket p)).length = 9 ∧
    payloadOf ((packetBytes (buildPacket p)).take 8) = some p ∧
    (packetBytes (buildPacket p))[8]? = some (crc8 ((packetBytes (buildPacket p)).take 8))

/-- 41_crc_framing R95, 30_encoding R62, R74: CRC8 of up to CRC_MAX_LEN bytes is accepted and then completes in one
step, with the link open or closed. -/
def Obligations.Crc8Result : Prop :=
  ∀ (data : List Byte) (s : State), s.idleReady → crcLenOk Config.crcMaxLen data.length = true →
    ∃ t, exec (.crc8 data) s = .next t ∧ exec (.crc8 data) t = .next { s with
      cmd := some (s.offered (.crc8 data) { Descriptor.blank 0x1#4 with data := data })
      port := s.portAfter (.crc8 data), crcAcc := crc8 data, outCrc := crc8 data
      result := true, busy := false, seq := .idle, hist := s.hist ++ [.done 0x1#4 true] }

/-- 41_crc_framing R96: BUILD_PACKET of 8 bytes. -/
def Obligations.BuildPacketResult : Prop :=
  ∀ (data : List Byte) (p : Payload) (s : State), s.idleReady → payloadOf data = some p →
    ∃ t, exec (.buildPacket data) s = .next t ∧ exec (.buildPacket data) t = .next { s with
      cmd := some (s.offered (.buildPacket data) { Descriptor.blank 0x2#4 with data := data })
      port := s.portAfter (.buildPacket data), crcAcc := crc8 data
      pktBuf := { payload := p, crc := crc8 data }, outPkt := { payload := p, crc := crc8 data }
      result := true, busy := false, seq := .idle, hist := s.hist ++ [.done 0x2#4 true] }

/-- 41_crc_framing R97: PARSE_ACK of one byte gives 1 for 0x90 and 0 for every other byte; RESP and STATUS.SYNC stay. -/
def Obligations.ParseAckResult : Prop :=
  ∀ (b : Byte) (s : State), s.idleReady →
    ∃ t, exec (.parseAck [b]) s = .next t ∧ exec (.parseAck [b]) t = .next { s with
      cmd := some (s.offered (.parseAck [b]) { Descriptor.blank 0x3#4 with data := [b] })
      port := s.portAfter (.parseAck [b]), result := if b = 0x90#8 then true else false
      busy := false, seq := .idle, hist := s.hist ++ [.done 0x3#4 (if b = 0x90#8 then true else false)] }

/-! ### The payload encoder -/

/-- 40_payload_encoder R81 to R83, for every DPAD_FLAGS and DPAD_CODE: 0 gives the center; each legal direction gives
its code, which is below 8 and no other direction's; every other value gives the center. The order in which the flags
and the directions are numbered is the model's (log 14). -/
def Obligations.DpadCodes : Prop :=
  ∀ (bits : Equiv.Perm (Fin 4)) (codes : Equiv.Perm (Fin 8)), encodeDpadWith bits codes 0x00#8 = 0x08#8 ∧
    (∀ d, encodeDpadWith bits codes (dirFlags bits d) = BitVec.ofNat 8 (codes (dirIndex d)).val) ∧
    (∀ d d', encodeDpadWith bits codes (dirFlags bits d) = encodeDpadWith bits codes (dirFlags bits d') → d = d') ∧
    (∀ f, f ≠ 0x00#8 → (∀ d, f ≠ dirFlags bits d) → encodeDpadWith bits codes f = 0x08#8) ∧
    ∀ f, f.extractLsb' 4 4 ≠ 0#4 → encodeDpadWith bits codes f = 0x08#8

/-- 40_payload_encoder R83, R80: ENCODE_DPAD runs for every FLAGS and writes only OUT_DPAD and RESULT. -/
def Obligations.EncodeDpadResult : Prop :=
  ∀ (flags : Byte) (s : State), s.idleReady →
    ∃ (t : State) (code : Byte), exec (.encodeDpad flags) s = .next t ∧ exec (.encodeDpad flags) t = .next { s with
        cmd := some (s.offered (.encodeDpad flags) { Descriptor.blank 0xA#4 with flags := flags })
        port := s.portAfter (.encodeDpad flags), outDpad := code
        result := true, busy := false, seq := .idle, hist := s.hist ++ [.done 0xA#4 true] } ∧
      (flags = 0x00#8 → code = 0x08#8) ∧
      (∀ d, flags = dirFlags Config.dpadBits d → code = BitVec.ofNat 8 (Config.dpadCodes (dirIndex d)).val) ∧
      (flags ≠ 0x00#8 → (∀ d, flags ≠ dirFlags Config.dpadBits d) → code = 0x08#8)

/-- 40_payload_encoder R85: at every real angle in every stick unit, and in both uses the machine makes of POLAR. -/
def Obligations.PolarZeroIntensity : Prop :=
  (∀ (u : PolarUnit) (theta : ℝ), u.polar theta 0x00#8 = (0x80#8, 0x80#8)) ∧
    ∀ (unit : Option PolarUnit) (choice : Rat → Byte → Int × Int),
      (∀ a : Int, polarDegreesWith unit choice a 0x00#8 = (0x80#8, 0x80#8)) ∧
      ∀ f : BitVec 12, polarFieldWith unit choice f 0x00#8 = (0x80#8, 0x80#8)

/-- 40_payload_encoder R86, R84 P3: POLAR depends only on the angle mod 360: at every real angle in every stick unit,
and at the integer angles the machine uses. -/
def Obligations.PolarPeriodic : Prop :=
  (∀ (u : PolarUnit) (theta : ℝ) (k : ℤ) (i : Byte), u.polar (theta + 360 * k) i = u.polar theta i) ∧
    ∀ (unit : Option PolarUnit) (choice : Rat → Byte → Int × Int) (a k : Int) (i : Byte),
      polarDegreesWith unit choice (a + 360 * k) i = polarDegreesWith unit choice a i

/-- 40_payload_encoder R84 P2 and R87: where P2 leaves one value, every admissible POLAR gives it: full intensity on
the axes, and the zero coordinate there at every intensity. -/
def Obligations.PolarOnTheAxes : Prop :=
  ∀ (unit : Option PolarUnit) (choice : Rat → Byte → Int × Int) (polar : Int → Byte → Byte × Byte),
    polar = polarDegreesWith unit choice →
    polar 0 0xFF#8 = (0xFF#8, 0x80#8) ∧ polar 90 0xFF#8 = (0x80#8, 0x01#8) ∧
    polar 180 0xFF#8 = (0x01#8, 0x80#8) ∧ polar 270 0xFF#8 = (0x80#8, 0xFF#8) ∧
    ∀ i : Byte, (polar 0 i).2 = 0x80#8 ∧ (polar 90 i).1 = 0x80#8 ∧ (polar 180 i).2 = 0x80#8 ∧ (polar 270 i).1 = 0x80#8

/-- 40_payload_encoder R84 P1, R92: both coordinates lie in 1 to 255, whatever the stick unit, the choice and the
angle or the angle field. -/
def Obligations.PolarInRange : Prop :=
  ∀ (unit : Option PolarUnit) (choice : Rat → Byte → Int × Int) (i : Byte),
    (∀ a : Int, 0x01#8 ≤ (polarDegreesWith unit choice a i).1 ∧ 0x01#8 ≤ (polarDegreesWith unit choice a i).2) ∧
    ∀ f : BitVec 12, 0x01#8 ≤ (polarFieldWith unit choice f i).1 ∧ 0x01#8 ≤ (polarFieldWith unit choice f i).2

/-- 40_payload_encoder R84, R89: no reading of the angle fields and no POLAR within P1 to P4 is excluded: some stick
unit is exactly it. The POLAR the machine computes itself where there is no such unit (log 12) admits at every
rational angle of a turn both neighbours of the exact real value, and nothing farther than 10^-12 outside them (the
width of the model's enclosure; at the angles it is used for, PolarExactAtWholeDegrees says more). -/
def Obligations.PolarFollowsTheFormula : Prop :=
  (∀ (reading : BitVec 12 → ℝ) (polar : ℝ → Byte → Byte × Byte), (∀ theta i, PolarRounds theta i (polar theta i)) →
    (∀ theta (k : ℤ) i, polar (theta + 360 * k) i = polar theta i) → ∃ unit : Option PolarUnit, ∀ choice,
      (∀ (a : Int) (i : Byte), polarDegreesWith unit choice a i = polar a i) ∧
      ∀ (f : BitVec 12) (i : Byte), polarFieldWith unit choice f i = polar (reading f) i) ∧
  ∀ (t : Rat) (i : Byte) (xr yr : ℝ), 0 ≤ t → t < 360 →
    xr = Real.cos (t * Real.pi / 180) * 127 * (i.toNat : ℝ) / 255 →
    yr = Real.sin (t * Real.pi / 180) * 127 * (i.toNat : ℝ) / 255 →
    (∀ x y : ℤ, (x = ⌊xr⌋ ∨ x = ⌈xr⌉) → (y = ⌊yr⌋ ∨ y = ⌈yr⌉) →
      ∃ choice, polarWith choice t i = (BitVec.ofInt 8 (128 + x), BitVec.ofInt 8 (128 - y))) ∧
    ∀ choice, ⌊xr - 1 / 10 ^ 12⌋ ≤ ((polarWith choice t i).1.toNat : ℤ) - 128 ∧
      ((polarWith choice t i).1.toNat : ℤ) - 128 ≤ ⌈xr + 1 / 10 ^ 12⌉ ∧
      ⌊yr - 1 / 10 ^ 12⌋ ≤ 128 - ((polarWith choice t i).2.toNat : ℤ) ∧
      128 - ((polarWith choice t i).2.toNat : ℤ) ≤ ⌈yr + 1 / 10 ^ 12⌉

/-- 40_payload_encoder R84 P2, R87, R89, R90: in every use the machine makes of POLAR the coordinates are exactly a
floor or a ceiling of the exact real values: at every integer angle, and at the angle some reading of the fields gives
each field. -/
def Obligations.PolarExactAtWholeDegrees : Prop :=
  ∀ (unit : Option PolarUnit) (choice : Rat → Byte → Int × Int),
    (∀ (a : Int) (i : Byte) (x y : ℤ) (xr yr : ℝ), x = ((polarDegreesWith unit choice a i).1.toNat : ℤ) - 128 →
      y = 128 - ((polarDegreesWith unit choice a i).2.toNat : ℤ) →
      xr = Real.cos (a * Real.pi / 180) * 127 * (i.toNat : ℝ) / 255 →
      yr = Real.sin (a * Real.pi / 180) * 127 * (i.toNat : ℝ) / 255 →
      (x = ⌊xr⌋ ∨ x = ⌈xr⌉) ∧ (y = ⌊yr⌋ ∨ y = ⌈yr⌉)) ∧
    ∃ reading : BitVec 12 → ℝ, ∀ (f : BitVec 12) (i : Byte) (x y : ℤ) (xr yr : ℝ),
      x = ((polarFieldWith unit choice f i).1.toNat : ℤ) - 128 →
      y = 128 - ((polarFieldWith unit choice f i).2.toNat : ℤ) →
      xr = Real.cos (reading f * Real.pi / 180) * 127 * (i.toNat : ℝ) / 255 →
      yr = Real.sin (reading f * Real.pi / 180) * 127 * (i.toNat : ℝ) / 255 →
      (x = ⌊xr⌋ ∨ x = ⌈xr⌉) ∧ (y = ⌊yr⌋ ∨ y = ⌈yr⌉)

/-- 40_payload_encoder R87, R80: POLAR_TO_CARTESIAN runs for every ANGLE and INTENSITY, gives POLAR of the angle in 0
to 359 congruent to ANGLE, and writes only OUT_XY and RESULT. -/
def Obligations.PolarToCartesianResult : Prop :=
  ∀ (angle : Int) (intensity : Byte) (s : State), s.idleReady →
    ∃ (t : State) (a : Nat), a < 360 ∧ (a : Int) = angle % 360 ∧
      exec (.polarToCartesian angle intensity) s = .next t ∧
      exec (.polarToCartesian angle intensity) t = .next { s with
        cmd := some (s.offered (.polarToCartesian angle intensity)
          { Descriptor.blank 0xB#4 with angle := angle, intensity := intensity })
        port := s.portAfter (.polarToCartesian angle intensity)
        outXY := polarDegrees a intensity
        result := true, busy := false, seq := .idle, hist := s.hist ++ [.done 0xB#4 true] }

/-- 40_payload_encoder R89, R90: DECODE_CONTROLLER_STATE runs for every STATE: the button bytes high byte first, the
dpad code, the two sticks, and 0; only OUT_PAYLOAD and RESULT are written. -/
def Obligations.DecodeControllerStateResult : Prop :=
  ∀ (v : BitVec 64) (s : State), s.idleReady →
    ∃ t, exec (.decodeControllerState v) s = .next t ∧ exec (.decodeControllerState v) t = .next { s with
      cmd := some (s.offered (.decodeControllerState v) { Descriptor.blank 0xC#4 with state := v })
      port := s.portAfter (.decodeControllerState v)
      outPayload := { cmdHigh := v.extractLsb' 8 8, cmdLow := v.extractLsb' 0 8
                      dpad := encodeDpad (v.extractLsb' 16 8)
                      leftX := (polarField (v.extractLsb' 32 12) (v.extractLsb' 24 8)).1
                      leftY := (polarField (v.extractLsb' 32 12) (v.extractLsb' 24 8)).2
                      rightX := (polarField (v.extractLsb' 52 12) (v.extractLsb' 44 8)).1
                      rightY := (polarField (v.extractLsb' 52 12) (v.extractLsb' 44 8)).2
                      reserved := 0x00#8 }
      result := true, busy := false, seq := .idle, hist := s.hist ++ [.done 0xC#4 true] }

/-- 40_payload_encoder R83, R84, R90: the ranges of a decoded payload, which R92 derives; bytes 0 and 1 take every
value. -/
def Obligations.DecodedRanges : Prop :=
  (∀ v : BitVec 64, (decodeState v).dpad ≤ 0x08#8 ∧ 0x01#8 ≤ (decodeState v).leftX ∧ 0x01#8 ≤ (decodeState v).leftY ∧
    0x01#8 ≤ (decodeState v).rightX ∧ 0x01#8 ≤ (decodeState v).rightY ∧ (decodeState v).reserved = 0x00#8) ∧
    ∀ high low : Byte, ∃ v, (decodeState v).cmdHigh = high ∧ (decodeState v).cmdLow = low

/-- 40_payload_encoder R82, R85, R90 (the inference of 00_scope R19): a state with no button, a dpad field that
encodes to the center and both intensities 0 gives the neutral payload, whatever its angle fields hold; the neutral
state is one. -/
def Obligations.NeutralDecodes : Prop :=
  (∀ v : BitVec 64, v.extractLsb' 0 16 = 0#16 → encodeDpad (v.extractLsb' 16 8) = 0x08#8 →
    v.extractLsb' 24 8 = 0#8 → v.extractLsb' 44 8 = 0#8 → decodeState v = neutralPayload) ∧
    decodeState 0x0000000000000000#64 = neutralPayload ∧
    payloadBytes neutralPayload = [0x00#8, 0x00#8, 0x08#8, 0x80#8, 0x80#8, 0x80#8, 0x80#8, 0x00#8]

/-! ### Acceptance -/

/-- 30_encoding R74, R58, R61, R62, 60_exceptions R132, R135, R138, R139: what the Core does with a command: while
another one executes, the port holds it and nothing else changes; an idle Core makes the checks in their order. The
descriptor `x` that is latched is the one the port holds, every field as it was presented, and it leaves the port; an
ABORT taken first leaves it held. Where the port holds no descriptor of this command, it is the assembler's, presented
now (log 11). A port that holds a descriptor is presented no second (log 16). The first label is that of the called
sequence where there is one (log 2). -/
def Obligations.AcceptanceInOrder : Prop :=
  ∀ (i : Instr) (d x : Descriptor) (rest : Option Descriptor) (s : State), encodeCommand i = some d →
    (x, rest) = (match s.port with
      | some p => if decodeCommand p = i.core then (p, none) else (d, some p)
      | none => (d, none)) →
    s.offered i.core d = x ∧ s.portAfter i.core = rest ∧
    (s.busy = true → s.cmd.map decodeCommand ≠ some i.core →
      exec i s = .next { s with port := some (s.port.getD d) }) ∧
    (s.busy = false → exec i s = .next
      (if s.abortReq = true then { s with
          port := some (s.port.getD d), abortReq := false, aborted := true, sync := .outOfSync, reading := false
          cmd := some (Descriptor.blank 0x9#4), busy := true, seq := .call .d0 .sp0 }
       else if s.fault ≠ .none ∧ x.op ≠ 0x9#4 then { s with
          cmd := some x, port := rest, result := false, seq := .idle, hist := s.hist ++ [.done x.op false] }
       else if x.op = 0x0#4 ∨ x.op = 0xD#4 ∨ x.op = 0xE#4 ∨ x.op = 0xF#4 then { s with
          cmd := some x, port := rest, fault := .illegalCommand, faultOp := x.op, faultStep := .accept, result := false
          seq := .idle, hist := s.hist ++ [.fault .illegalCommand, .done x.op false] }
       else if 0x4#4 ≤ x.op ∧ x.op ≤ 0x8#4 ∧ s.link = .closed then { s with
          cmd := some x, port := rest, fault := .linkClosed, faultOp := x.op, faultStep := .accept, result := false
          seq := .idle, hist := s.hist ++ [.fault .linkClosed, .done x.op false] }
       else if (x.op = 0x1#4 ∧ crcLenOk Config.crcMaxLen x.data.length = false) ∨
            (x.op = 0x2#4 ∧ x.data.length ≠ 8) ∨ (x.op = 0x3#4 ∧ x.data.length ≠ 1) ∨
            (x.op = 0x4#4 ∧ x.data.length ≠ 8) then { s with
          cmd := some x, port := rest, fault := .badOperand, faultOp := x.op, faultStep := .accept, result := false
          seq := .idle, hist := s.hist ++ [.fault .badOperand, .done x.op false] }
       else { s with cmd := some x, port := rest, busy := true, seq := firstStep x.op }))

/-- 30_encoding R61: accepting a reserved OP raises ILLEGAL_COMMAND. -/
def Obligations.ReservedOpsFault : Prop :=
  ∀ s : State, s.idleReady →
    ∀ i op, (i, op) ∈ [(Instr.reserved0, 0x0#4), (.reservedD, 0xD#4), (.reservedE, 0xE#4), (.reservedF, 0xF#4)] →
      exec i s = .next { s with
        cmd := some (s.offered i (Descriptor.blank op)), port := s.portAfter i
        fault := .illegalCommand, faultOp := op, faultStep := .accept, result := false
        seq := .idle, hist := s.hist ++ [.fault .illegalCommand, .done op false] }

/-! ### Sending -/

/-- 42_link_sequencer R107, R108, R109: SEND_PACKET with a byte in RXF takes acceptance and three steps: one write of
the 9 bytes, one read of the oldest byte, the verdict. -/
def Obligations.SendPacketRun : Prop :=
  ∀ (data : List Byte) (p : Payload) (b : Byte) (r : List Byte) (s : State), s.linkReady → payloadOf data = some p →
    s.rxf = b :: r →
    ∃ t1 t2 t3, exec (.sendPacket data) s = .next t1 ∧ exec (.sendPacket data) t1 = .next t2 ∧
      exec (.sendPacket data) t2 = .next t3 ∧ exec (.sendPacket data) t3 = .next { s with
        cmd := some (s.offered (.sendPacket data) { Descriptor.blank 0x4#4 with data := data })
        port := s.portAfter (.sendPacket data), reading := false
        pktBuf := { payload := p, crc := crc8 data }, crcAcc := crc8 data, tx := s.tx ++ data ++ [crc8 data]
        rxf := r, resp := b, sync := if b = 0x90#8 then .synced else .outOfSync
        result := if b = 0x90#8 then true else false, busy := false, seq := .idle
        hist := s.hist ++ [.tx (data ++ [crc8 data]), .rx [b], .done 0x4#4 (if b = 0x90#8 then true else false)] }

/-- 42_link_sequencer R118: SEND_COMMAND sends the packet of Decode(STATE) the same way; OUT_PAYLOAD is not written. -/
def Obligations.SendCommandRun : Prop :=
  ∀ (v : BitVec 64) (b : Byte) (r : List Byte) (s : State), s.linkReady → s.rxf = b :: r →
    ∃ t1 t2 t3, exec (.sendCommand v) s = .next t1 ∧ exec (.sendCommand v) t1 = .next t2 ∧
      exec (.sendCommand v) t2 = .next t3 ∧ exec (.sendCommand v) t3 = .next { s with
        cmd := some (s.offered (.sendCommand v) { Descriptor.blank 0x7#4 with state := v })
        port := s.portAfter (.sendCommand v), reading := false
        pktBuf := { payload := decodeState v, crc := crc8 (payloadBytes (decodeState v)) }
        crcAcc := crc8 (payloadBytes (decodeState v))
        tx := s.tx ++ payloadBytes (decodeState v) ++ [crc8 (payloadBytes (decodeState v))]
        rxf := r, resp := b, sync := if b = 0x90#8 then .synced else .outOfSync
        result := if b = 0x90#8 then true else false, busy := false, seq := .idle
        hist := s.hist ++ [.tx (payloadBytes (decodeState v) ++ [crc8 (payloadBytes (decodeState v))]), .rx [b],
          .done 0x7#4 (if b = 0x90#8 then true else false)] }

/-- 30_encoding R77: RELEASE is SEND_COMMAND 0 in every state, and puts the neutral packet on the wire. -/
def Obligations.ReleaseRun : Prop :=
  (∀ s : State, exec .release s = exec (.sendCommand 0x0000000000000000#64) s) ∧
    ∀ (b : Byte) (r : List Byte) (s : State), s.linkReady → s.rxf = b :: r →
      ∃ t1 t2 t3, exec .release s = .next t1 ∧ exec .release t1 = .next t2 ∧ exec .release t2 = .next t3 ∧
        exec .release t3 = .next { s with
          cmd := some (s.offered (.sendCommand 0#64) (Descriptor.blank 0x7#4)), port := s.portAfter (.sendCommand 0#64)
          reading := false, pktBuf := { payload := neutralPayload, crc := 0x54#8 }, crcAcc := 0x54#8
          tx := s.tx ++ [0x00#8, 0x00#8, 0x08#8, 0x80#8, 0x80#8, 0x80#8, 0x80#8, 0x00#8, 0x54#8]
          rxf := r, resp := b, sync := if b = 0x90#8 then .synced else .outOfSync
          result := if b = 0x90#8 then true else false, busy := false, seq := .idle
          hist := s.hist ++ [.tx [0x00#8, 0x00#8, 0x08#8, 0x80#8, 0x80#8, 0x80#8, 0x80#8, 0x00#8, 0x54#8], .rx [b],
            .done 0x7#4 (if b = 0x90#8 then true else false)] }

/-- 20_memory R47, 60_exceptions R149: a Core blocked in a read stays as it is, but for the model's mark that the read
has begun (log 31). -/
def Obligations.BlockedReadWaits : Prop :=
  ∀ (i : Instr) (s : State) (o : Label) (c : SubLabel) (n : Nat), SeqInv s → s.busy = true →
    s.cmd.map decodeCommand = some i → s.abortDue = false → s.draw.fails = false → s.seq = .call o c →
    s.readNeed c = some n → s.rxf.length < n → exec i s = .next { s with reading := true }

/-- 20_memory R47, 10_state R28, 42_link_sequencer R107 to R109, R114, R116, R118, R119, R121, 60_exceptions R140:
NO_DATA, the timeout of a blocked 1-byte read on an empty RXF, leaves RESP = 0x00 and goes on: a send to its verdict,
a handshake read to its failure. That it goes on while an ABORT is pending too is the model's reading (log 25). With
an infinite READ_TIMEOUT there is no timeout, and where no read is blocked none happens. The verdict of a send, from
any state that stands at it, is then STATUS.SYNC by RESP = 0x90 and what each command goes on to. The values of TMP
after completion are the model's choice (log 4). -/
def Obligations.TimedOutRead : Prop :=
  (∀ (s : State) (o : Label) (c c' : SubLabel), s.busy = true → s.reading = true → s.rxf = [] →
    s.seq = .call o c → (c, c') ∈ [(SubLabel.sp1, SubLabel.sp2), (.fs5, .fsx), (.fs7, .fsx)] →
    exec .noData s = .next (if Config.readTimeout.isSome then { s with
      resp := 0x00#8, reading := false, seq := .call o c', hist := s.hist ++ [.rx []] } else s)) ∧
    (∀ s : State, s.blockedRead = none → exec .noData s = .next s) ∧
    ∀ (i : Instr) (s : State) (ok : Bool) (v : SyncStatus), s.busy = true → s.cmd.map decodeCommand = some i →
      s.abortDue = false → (ok, v) = (if s.resp = 0x90#8 then (true, SyncStatus.synced) else (false, .outOfSync)) →
      (∀ data, i = .sendPacket data → data.length = 8 → s.seq = .call .s0 .sp2 → exec i s = .next { s with
        sync := v, result := ok, busy := false, seq := .idle, hist := s.hist ++ [.done 0x4#4 ok] }) ∧
      (∀ w, i = .sendCommand w → s.seq = .call .c0 .sp2 → exec i s = .next { s with
        sync := v, result := ok, busy := false, seq := .idle, hist := s.hist ++ [.done 0x7#4 ok] }) ∧
      (i = .sync → s.seq = .call .y0 .sp2 → exec i s = .next (if ok then { s with
          sync := v, tmpOk1 := true, result := true, busy := false, seq := .idle, hist := s.hist ++ [.done 0x6#4 true] }
        else { s with sync := v, tmpOk1 := false, seq := .call .y1 .fs0 })) ∧
      (i = .sync → s.seq = .call .y2 .sp2 → exec i s = .next { s with
        sync := v, result := ok, busy := false, seq := .idle, hist := s.hist ++ [.done 0x6#4 ok] }) ∧
      (∀ w hold, i = .tapCommand w hold →
        (s.seq = .call .t0 .sp2 → exec i s = .next { s with sync := v, tmpOk1 := ok, seq := .at .t1 }) ∧
        (s.seq = .call .t2 .sp2 → exec i s = .next { s with sync := v, tmpOk := ok, seq := .at .t3 })) ∧
      (i = .teardown → s.seq = .call .d0 .sp2 → exec i s = .next { s with sync := v, tmpOk := ok, seq := .at .d1 })

/-! ### The handshake -/

/-- 42_link_sequencer R111, R115, 30_encoding R67: FORCE_SYNC from an empty RXF with a device that echoes 0xFF,
answers 0x33 with 0xCC and 0xCC with 0x33: acceptance, eight steps and three arrivals. The values of TMP after
completion are the model's choice (log 4). -/
def Obligations.ForceSyncRun : Prop :=
  ∀ s : State, s.linkReady → s.rxf = [] →
    runInstrs [.forceSync, .forceSync, .syncStartEcho, .forceSync, .forceSync, .forceSync, .sync1Response, .forceSync,
        .forceSync, .syncOkResponse, .forceSync, .forceSync] s = .next { s with
      cmd := some (s.offered .forceSync (Descriptor.blank 0x5#4)), port := s.portAfter .forceSync, reading := false
      sync := .synced, resp := 0x33#8, result := true, busy := false, seq := .idle
      tmpNavail := 1, tmpVisit := 0, rxf := [], tx := s.tx ++ List.replicate 9 0xFF#8 ++ [0x33#8] ++ [0xCC#8]
      hist := s.hist ++ [.tx (List.replicate 9 0xFF#8), .avail 1, .rx [0xFF#8], .tx [0x33#8], .rx [0xCC#8],
        .tx [0xCC#8], .rx [0x33#8], .done 0x5#4 true] }

/-- 42_link_sequencer R111, R113, R114, 30_encoding R67: each read of the handshake, in FORCE_SYNC and inside SYNC:
the drain returns at once all the bytes the poll counted and goes on only on a last byte 0xFF; the two later reads
take the oldest byte and go on only on 0xCC and 0x33. A read that has begun and has its bytes returns before a pending
ABORT is looked at (60_exceptions R139). -/
def Obligations.HandshakeReads : Prop :=
  ∀ (i : Instr) (o : Label), (i, o) ∈ [(Instr.forceSync, Label.f0), (.sync, .y1)] → ∀ s : State, s.busy = true →
    s.cmd.map decodeCommand = some i → (s.abortDue = true → s.reading = true) → s.draw.fails = false →
    (s.seq = .call o .fs3 → DrainInv s → exec i s = .next { s with
      rxf := s.rxf.drop s.tmpNavail, resp := (s.rxf.take s.tmpNavail).getLastD 0x00#8
      reading := false, hist := s.hist ++ [.rx (s.rxf.take s.tmpNavail)]
      seq := .call o (if (s.rxf.take s.tmpNavail).getLastD 0x00#8 = 0xFF#8 then .fs4 else .fsx) }) ∧
    (∀ b r, s.rxf = b :: r → s.seq = .call o .fs5 → exec i s = .next { s with
      rxf := r, resp := b, reading := false, hist := s.hist ++ [.rx [b]]
      seq := .call o (if b = 0xCC#8 then .fs6 else .fsx) }) ∧
    ∀ b r, s.rxf = b :: r → s.seq = .call o .fs7 → exec i s = .next { s with
      rxf := r, resp := b, reading := false, hist := s.hist ++ [.rx [b]]
      seq := .call o (if b = 0x33#8 then .fs8 else .fsx) }

/-- 42_link_sequencer R111, R115, R116: the end of the handshake. FORCE_SYNC completes with the verdict; SYNC goes on
to its confirm packet after a success and completes with 0, sending none, after a failure. -/
def Obligations.HandshakeVerdict : Prop :=
  ∀ s : State, s.busy = true → s.abortReq = false →
    (s.cmd.map decodeCommand = some .forceSync → ∀ c ok, (c, ok) ∈ [(SubLabel.fs8, true), (.fsx, false)] →
      s.seq = .call .f0 c → exec .forceSync s = .next { s with
        sync := if ok then .synced else .outOfSync, result := ok, busy := false, seq := .idle
        hist := s.hist ++ [.done 0x5#4 ok] }) ∧
    (s.cmd.map decodeCommand = some .sync →
      (s.seq = .call .y1 .fs8 → exec .sync s = .next { s with sync := .synced, seq := .call .y2 .sp0 }) ∧
      (s.seq = .call .y1 .fsx → exec .sync s = .next { s with
        sync := .outOfSync, result := false, busy := false, seq := .idle, hist := s.hist ++ [.done 0x6#4 false] }))

/-- 42_link_sequencer R111, R112: one visit of the poll, and the poll's wait. With a byte in RXF the drain follows;
without one the poll ends where the Environment ends it, at the latest at visit ceil(B / P), and never under an
infinite B. -/
def Obligations.PollVisit : Prop :=
  ∀ (i : Instr) (o : Label), (i, o) ∈ [(Instr.forceSync, Label.f0), (.sync, .y1)] → ∀ s : State, s.busy = true →
    s.cmd.map decodeCommand = some i → s.abortDue = false → s.draw.fails = false →
    (s.seq = .call o .fs1 → exec i s = .next (if 0 < s.rxf.length then { s with
        tmpNavail := s.rxf.length, seq := .call o .fs3, hist := s.hist ++ [.avail s.rxf.length] }
      else if (match Config.syncWaitBound with
          | none => false
          | some b => s.draw.pollEnd || decide (⌈b.1.1 / (1 / 10)⌉₊ ≤ s.tmpVisit)) then { s with
        resp := 0x00#8, seq := .call o .fsx, hist := s.hist ++ [.avail 0] }
      else { s with seq := .call o .fs2, hist := s.hist ++ [.avail 0] })) ∧
    (s.seq = .call o .fs2 → exec i s = .next { s with
      tmpVisit := s.tmpVisit + 1, seq := .call o .fs1, hist := s.hist ++ [.wait (.exact (1 / 10))] })

/-- 42_link_sequencer R112, R124: on a silent device a finite bound B ends the poll within 2 ceil(B / P) + 1 steps, with
RESP = 0x00, and an infinite one never ends it. -/
def Obligations.PollEnds : Prop :=
  ∀ (s : State) (o : Label), s.seq = .call o .fs1 → s.tmpVisit = 0 → s.rxf = [] → s.draw.fails = false →
    (∀ b : WaitBound,
      (s.pollFor (some b) o (2 * ⌈b.1.1 / (1 / 10)⌉₊ + 1)).seq = .call o .fsx ∧
      (s.pollFor (some b) o (2 * ⌈b.1.1 / (1 / 10)⌉₊ + 1)).resp = 0x00#8) ∧
    ∀ n, (s.pollFor none o n).seq = .call o .fs1 ∨ (s.pollFor none o n).seq = .call o .fs2

/-- 42_link_sequencer R116: SYNC whose first packet is acknowledged is done: no flush is sent. The values of TMP after
completion are the model's choice (log 4). -/
def Obligations.SyncOptimistic : Prop :=
  ∀ (r : List Byte) (s : State), s.linkReady → s.rxf = 0x90#8 :: r →
    ∃ t1 t2 t3, exec .sync s = .next t1 ∧ exec .sync t1 = .next t2 ∧ exec .sync t2 = .next t3 ∧
      exec .sync t3 = .next { s with
        cmd := some (s.offered .sync (Descriptor.blank 0x6#4)), port := s.portAfter .sync, reading := false
        pktBuf := { payload := neutralPayload, crc := 0x54#8 }, crcAcc := 0x54#8
        tx := s.tx ++ packetBytes (buildPacket neutralPayload), rxf := r, resp := 0x90#8, sync := .synced
        tmpOk1 := true, result := true, busy := false, seq := .idle
        hist := s.hist ++ [.tx (packetBytes (buildPacket neutralPayload)), .rx [0x90#8], .done 0x6#4 true] }

/-- 42_link_sequencer R116, R117: SYNC whose first packet fails runs the handshake and one confirm packet, whose
acknowledgement is the result. The values of TMP after completion are the model's choice (log 4). -/
def Obligations.SyncThroughHandshake : Prop :=
  ∀ (a b : Byte) (ack : Instr) (s : State), s.linkReady → a ≠ 0x90#8 → s.rxf = [a] →
    (ack, b) ∈ [(Instr.usbAck, 0x90#8), (.updateAck, 0x91#8), (.updateNack, 0x92#8)] →
    runInstrs [.sync, .sync, .sync, .sync, .sync, .syncStartEcho, .sync, .sync, .sync, .sync1Response, .sync, .sync,
        .syncOkResponse, .sync, .sync, .sync, ack, .sync, .sync] s = .next { s with
      cmd := some (s.offered .sync (Descriptor.blank 0x6#4)), port := s.portAfter .sync, reading := false
      pktBuf := { payload := neutralPayload, crc := 0x54#8 }, crcAcc := 0x54#8
      tx := s.tx ++ packetBytes (buildPacket neutralPayload) ++ List.replicate 9 0xFF#8 ++ [0x33#8] ++ [0xCC#8] ++
        packetBytes (buildPacket neutralPayload)
      rxf := [], resp := b, sync := if b = 0x90#8 then .synced else .outOfSync, tmpOk1 := false, tmpNavail := 1
      tmpVisit := 0, result := if b = 0x90#8 then true else false, busy := false, seq := .idle
      hist := s.hist ++ [.tx (packetBytes (buildPacket neutralPayload)), .rx [a], .tx (List.replicate 9 0xFF#8),
        .avail 1, .rx [0xFF#8], .tx [0x33#8], .rx [0xCC#8], .tx [0xCC#8], .rx [0x33#8],
        .tx (packetBytes (buildPacket neutralPayload)), .rx [b],
        .done 0x6#4 (if b = 0x90#8 then true else false)] }

/-! ### Tap and teardown -/

/-- 42_link_sequencer R119, R120, 00_scope R11: TAP_COMMAND sends the press and then the neutral packet whatever came
of the press, waits TAP_GAP between them and HOLD after them, and its result is the AND of the two verdicts;
STATUS.SYNC is the release's. Its own steps T1, T3 and T4, from any state that stands at them, are stated beside the
whole run. The values of TMP after completion are the model's choice (log 4). -/
def Obligations.TapCommandRun : Prop :=
  (∀ (v : BitVec 64) (hold : Seconds) (a b : Byte) (r : List Byte) (s : State), s.linkReady → s.rxf = a :: b :: r →
    runInstrs (List.replicate 10 (.tapCommand v hold)) s = .next { s with
      cmd := some (s.offered (.tapCommand v hold) { Descriptor.blank 0x8#4 with state := v, hold := hold })
      port := s.portAfter (.tapCommand v hold), reading := false
      pktBuf := { payload := neutralPayload, crc := 0x54#8 }, crcAcc := 0x54#8
      tx := s.tx ++ packetBytes (buildPacket (decodeState v)) ++ packetBytes (buildPacket neutralPayload)
      rxf := r, resp := b, sync := if b = 0x90#8 then .synced else .outOfSync
      tmpOk1 := if a = 0x90#8 then true else false, tmpOk := if b = 0x90#8 then true else false
      result := if a = 0x90#8 ∧ b = 0x90#8 then true else false, busy := false, seq := .idle
      hist := s.hist ++ [.tx (packetBytes (buildPacket (decodeState v))), .rx [a], .wait (.exact (1 / 20)),
        .tx (packetBytes (buildPacket neutralPayload)), .rx [b], .wait hold,
        .done 0x8#4 (if a = 0x90#8 ∧ b = 0x90#8 then true else false)] }) ∧
  ∀ (v : BitVec 64) (hold : Seconds) (s : State), s.busy = true → s.abortReq = false →
    s.cmd.map decodeCommand = some (.tapCommand v hold) →
    (s.seq = .at .t1 → exec (.tapCommand v hold) s = .next { s with
      seq := .call .t2 .sp0, hist := s.hist ++ [.wait (.exact (1 / 20))] }) ∧
    (s.seq = .at .t3 → exec (.tapCommand v hold) s = .next { s with
      seq := .at .t4, hist := s.hist ++ [.wait hold] }) ∧
    (s.seq = .at .t4 → exec (.tapCommand v hold) s = .next { s with
      result := s.tmpOk1 && s.tmpOk, busy := false, seq := .idle
      hist := s.hist ++ [.done 0x8#4 (s.tmpOk1 && s.tmpOk)] })

/-- 42_link_sequencer R121, R122, 20_memory R50: TEARDOWN on an open link, faulted or not, sends the neutral packet
and closes, whatever the acknowledgement, in acceptance and four steps; on a closed link it sends nothing, does not
close again and completes with RESULT 0. The values of TMP after completion are the model's choice (log 4). -/
def Obligations.TeardownRun : Prop :=
  (∀ (b : Byte) (r : List Byte) (s : State), s.busy = false → s.abortReq = false → s.link = .opened →
    s.draw.fails = false → s.rxf = b :: r →
    ∃ t1 t2 t3 t4, exec .teardown s = .next t1 ∧ exec .teardown t1 = .next t2 ∧ exec .teardown t2 = .next t3 ∧
      exec .teardown t3 = .next t4 ∧ exec .teardown t4 = .next { s with
        cmd := some (s.offered .teardown (Descriptor.blank 0x9#4)), port := s.portAfter .teardown, reading := false
        pktBuf := { payload := neutralPayload, crc := 0x54#8 }, crcAcc := 0x54#8
        tx := s.tx ++ packetBytes (buildPacket neutralPayload), rxf := r, resp := b, link := .closed
        sync := if b = 0x90#8 then .synced else .outOfSync, tmpOk := if b = 0x90#8 then true else false
        result := if b = 0x90#8 then true else false, seq := .idle
        hist := s.hist ++ [.tx (packetBytes (buildPacket neutralPayload)), .rx [b], .close,
          .done 0x9#4 (if b = 0x90#8 then true else false)] }) ∧
  ∀ s : State, s.busy = false → s.abortReq = false → s.link = .closed →
    ∃ t, exec .teardown s = .next t ∧ exec .teardown t = .next { s with
      cmd := some (s.offered .teardown (Descriptor.blank 0x9#4)), port := s.portAfter .teardown, result := false
      seq := .idle, hist := s.hist ++ [.done 0x9#4 false] }

/-! ### Faults and ABORT -/

/-- 60_exceptions R133, R134, 20_memory R45 to R47, 42_link_sequencer R106: a TransportError of the write, count or
read of any command's step, outside TEARDOWN's D0, ends the command in that step: the first fault is kept, STATUS.SYNC
becomes OutOfSync, RESULT 0, a failed write sends the prefix the Environment drew, and a failed read or count removes
nothing. The failure of a read in progress comes before a pending ABORT (60_exceptions R139). The values of TMP after
completion are the model's choice (log 4). -/
def Obligations.FailedPrimitiveEndsCommand : Prop :=
  ∀ (i : Instr) (s : State) (o : Label) (c : SubLabel), SeqInv s → s.busy = true →
    s.cmd.map decodeCommand = some i → s.draw.fails = true → s.seq = .call o c → o ≠ .d0 →
    c ∈ [SubLabel.sp0, .sp1, .fs0, .fs1, .fs3, .fs4, .fs5, .fs6, .fs7] →
    (s.abortDue = true → s.reading = true ∧ c ∈ [SubLabel.sp1, .fs3, .fs5, .fs7]) →
    ∃ (pkt : Packet) (acc : Byte) (visit : Nat) (sent : List Byte) (ev : List Event), exec i s = .next { s with
        fault := if s.fault = .none then .transportError else s.fault
        faultOp := if s.fault = .none then s.cmdOp else s.faultOp
        faultStep := if s.fault = .none then .path (.call o c) else s.faultStep
        sync := .outOfSync, reading := false, result := false, seq := .idle, busy := false
        pktBuf := pkt, crcAcc := acc, tmpVisit := visit, tx := s.tx ++ sent
        hist := s.hist ++ ev ++ [.fault .transportError, .done s.cmdOp false] } ∧
      (c ≠ .sp0 → pkt = s.pktBuf ∧ acc = s.crcAcc) ∧ (c ≠ .fs0 → visit = s.tmpVisit) ∧
      (c = .sp0 → ∃ p, s.sendPayload = some p ∧ pkt = buildPacket p ∧ acc = pkt.crc ∧
        sent = (packetBytes pkt).take s.draw.sent ∧ ev = [.txFail (packetBytes pkt)]) ∧
      (c = .fs0 → visit = 0 ∧ sent = (List.replicate 9 0xFF#8).take s.draw.sent ∧
        ev = [.txFail (List.replicate 9 0xFF#8)]) ∧
      (c = .fs4 → sent = [0x33#8].take s.draw.sent ∧ ev = [.txFail [0x33#8]]) ∧
      (c = .fs6 → sent = [0xCC#8].take s.draw.sent ∧ ev = [.txFail [0xCC#8]]) ∧
      (c ∈ [SubLabel.sp1, .fs1, .fs3, .fs5, .fs7] → sent = [] ∧ ev = [])

/-- 60_exceptions R134, 42_link_sequencer R121: a TransportError of TEARDOWN's write or read is recorded, and the next
step closes the link all the same, with RESULT 0. The values of TMP after completion are the model's choice (log 4). -/
def Obligations.TeardownClosesAfterFailure : Prop :=
  ∀ s : State, s.busy = true → s.cmd.map decodeCommand = some .teardown → s.link = .opened → s.draw.fails = true →
    (s.seq = .call .d0 .sp0 → ∃ t, exec .teardown s = .next t ∧ exec .teardown t = .next { s with
      fault := if s.fault = .none then .transportError else s.fault
      faultOp := if s.fault = .none then 0x9#4 else s.faultOp
      faultStep := if s.fault = .none then .path (.call .d0 .sp0) else s.faultStep
      pktBuf := { payload := neutralPayload, crc := 0x54#8 }, crcAcc := 0x54#8
      tx := s.tx ++ (packetBytes (buildPacket neutralPayload)).take s.draw.sent
      sync := .outOfSync, reading := false, link := .closed, tmpOk := false, result := false, busy := false
      seq := .idle, abortReq := false
      hist := s.hist ++ [.txFail (packetBytes (buildPacket neutralPayload)), .fault .transportError, .close,
        .done 0x9#4 false] }) ∧
    (s.seq = .call .d0 .sp1 → ∃ t, exec .teardown s = .next t ∧ exec .teardown t = .next { s with
      fault := if s.fault = .none then .transportError else s.fault
      faultOp := if s.fault = .none then 0x9#4 else s.faultOp
      faultStep := if s.fault = .none then .path (.call .d0 .sp1) else s.faultStep
      sync := .outOfSync, reading := false, link := .closed, tmpOk := false, result := false, busy := false
      seq := .idle, abortReq := false, hist := s.hist ++ [.fault .transportError, .close, .done 0x9#4 false] })

/-- 60_exceptions R137, R138, R139, 42_link_sequencer R106: an ABORT is taken at the boundary before any step of a
command other than TEARDOWN, and in a blocked read (a step that would wait or read leaves no event), and by an idle
Core; TEARDOWN begins. A read in progress that has its byte returns first. TEARDOWN itself is not aborted, and an
ABORT_REQ raised while it runs is cleared when it completes, with STATUS.ABORTED as it was. -/
def Obligations.AbortTaken : Prop :=
  (∀ (i : Instr) (s : State), s.busy = true → s.cmd.map decodeCommand = some i → s.abortReq = true →
    i ≠ .teardown → (s.reading = true → s.draw.fails = false ∧
      ∀ o c n, s.seq = .call o c → s.readNeed c = some n → s.rxf.length < n) → exec i s = .next { s with
      hist := s.hist ++ [.done s.cmdOp false], result := false, abortReq := false, aborted := true, sync := .outOfSync
      reading := false, cmd := some (Descriptor.blank 0x9#4), busy := true, seq := .call .d0 .sp0 }) ∧
    (∀ (i : Instr) (s : State) (o : Label) (b : Byte) (r : List Byte), SeqInv s → s.busy = true →
      s.cmd.map decodeCommand = some i → s.reading = true → s.draw.fails = false → s.rxf = b :: r →
      s.seq = .call o .sp1 → exec i s = .next { s with
        rxf := r, resp := b, reading := false, hist := s.hist ++ [.rx [b]], seq := .call o .sp2 }) ∧
    (∀ (d : Draw) (s : State), s.busy = false → s.port = none → s.abortReq = true →
      runMove (.core d) s = .next { s with
        draw := d, abortReq := false, aborted := true, sync := .outOfSync, reading := false
        cmd := some (Descriptor.blank 0x9#4), busy := true, seq := .call .d0 .sp0 }) ∧
    ∀ s : State, s.busy = true → s.cmd.map decodeCommand = some .teardown →
      (∀ t, exec .teardown s = .next t → t.aborted = s.aborted ∧
        (t.abortReq = s.abortReq ∨ (t.abortReq = false ∧ t.busy = false))) ∧
      (s.seq = .at .d1 → exec .teardown s = .next { s with
        link := .closed, result := s.tmpOk, busy := false, seq := .idle, abortReq := false
        hist := s.hist ++ [.close, .done 0x9#4 s.tmpOk] })

/-! ### The wire -/

/-- 30_encoding R63, R65, 42_link_sequencer R107, R111: the transmitted symbols, each at the step whose rule writes
it, and at each of them the step is the executing command's own, FORCE_SYNC's or SYNC's for a symbol and any sending
command's for a packet. That the instruction of a wire symbol is that step is the model's reading (log 9). -/
def Obligations.TransmittedSymbols : Prop :=
  (∀ (s : State) (o : Label), s.busy = true → s.abortDue = false → s.draw.fails = false →
    (callsSync o = true → s.seq = .call o .fs0 → exec .syncStart s = .next { s with
      sync := .syncing, tmpVisit := 0, tx := s.tx ++ List.replicate 9 0xFF#8, seq := .call o .fs1
      hist := s.hist ++ [.tx (List.replicate 9 0xFF#8)] }) ∧
    (callsSync o = true → s.seq = .call o .fs4 → exec .sync1 s = .next { s with
      tx := s.tx ++ [0x33#8], seq := .call o .fs5, hist := s.hist ++ [.tx [0x33#8]] }) ∧
    (callsSync o = true → s.seq = .call o .fs6 → exec .sync2 s = .next { s with
      tx := s.tx ++ [0xCC#8], seq := .call o .fs7, hist := s.hist ++ [.tx [0xCC#8]] }) ∧
    ∀ p, s.sendPayload = some p → s.seq = .call o .sp0 → exec (.wirePacket p) s = .next { s with
      pktBuf := buildPacket p, crcAcc := crc8 (payloadBytes p), tx := s.tx ++ payloadBytes p ++ [crc8 (payloadBytes p)]
      seq := .call o .sp1, hist := s.hist ++ [.tx (payloadBytes p ++ [crc8 (payloadBytes p)])] }) ∧
  ∀ (i : Instr) (s : State), s.busy = true → s.cmd.map decodeCommand = some i →
    (∀ o, (i, o) ∈ [(Instr.forceSync, Label.f0), (.sync, .y1)] →
      (s.seq = .call o .fs0 → exec i s = exec .syncStart s) ∧ (s.seq = .call o .fs4 → exec i s = exec .sync1 s) ∧
      (s.seq = .call o .fs6 → exec i s = exec .sync2 s)) ∧
    ∀ o p, SeqInv s → s.sendPayload = some p → s.seq = .call o .sp0 → exec i s = exec (.wirePacket p) s

/-- 30_encoding R65, 20_memory R45, R53, 42_link_sequencer R107, R111: whatever the machine does, bytes leave it only at
SP0, FS0, FS4 and FS6, and only a prefix of the packet of the payload being sent, of nine 0xFF, of 0x33 alone, of 0xCC
alone. -/
def Obligations.TransmitOnlyAtWriteSteps : Prop :=
  ∀ s t : State, step s = .next t → ∃ sent, t.tx = s.tx ++ sent ∧ (sent ≠ [] → s.busy = true ∧ ∃ o n,
    (s.seq = .call o .sp0 ∧ ∃ p, s.sendPayload = some p ∧ sent = (packetBytes (buildPacket p)).take n) ∨
    (s.seq = .call o .fs0 ∧ sent = (List.replicate 9 0xFF#8).take n) ∨
    (s.seq = .call o .fs4 ∧ sent = [0x33#8]) ∨ (s.seq = .call o .fs6 ∧ sent = [0xCC#8]))

/-- 30_encoding R66, 20_memory R48: a received symbol arrives at the tail of RXF if one more byte fits, and is lost if
not; nothing else changes. -/
def Obligations.ReceivedSymbolsArrive : Prop :=
  ∀ (i : Instr) (b : Byte) (s : State), (i, b) ∈ [(Instr.usbAck, 0x90#8), (.updateAck, 0x91#8), (.updateNack, 0x92#8),
      (.syncStartEcho, 0xFF#8), (.sync1Response, 0xCC#8), (.syncOkResponse, 0x33#8)] →
    exec i s = .next (if (match Config.rxCapacity with
        | none => true
        | some cap => decide (s.rxf.length < cap.1)) then { s with rxf := s.rxf ++ [b] } else s)

/-- 20_memory R47 to R49, 10_state R38: RXF is a strict FIFO: a step leaves it, appends the one byte that arrives, or
removes bytes from its head and records exactly them. -/
def Obligations.ReceiveFifoOrder : Prop :=
  ∀ s t : State, step s = .next t → t.rxf = s.rxf ∨ (∃ b, s.nextMove.1 = .arrive b ∧ t.rxf = s.rxf ++ [b]) ∨
    ∃ n, t.rxf = s.rxf.drop n ∧ t.hist = s.hist ++ [.rx (s.rxf.take n)]

/-! ### The whole machine -/

/-- 00_scope R4, 30_encoding R74, R79: a step runs the decoded instruction. A Core move runs the executing command, or
the one the port of an idle Core holds; an arriving byte runs its symbol; a timeout runs NO_DATA. The moves are the
model's schedule (log 6). A row of the opcode table placed for the host is run by the very next step (log 21). -/
def Obligations.StepRunsInstruction : Prop :=
  (∀ (s : State) (d : Draw) (c : Descriptor) (rest : List Move), s.sched = .core d :: rest →
    (s.busy = true → s.cmd = some c → step s = exec (decodeCommand c) { s with sched := rest, draw := d }) ∧
    (s.busy = false → s.port = some c →
      step s = exec (decodeCommand c) { s with sched := rest, draw := d })) ∧
    (∀ (s : State) (b : Byte) (i : Instr) (rest : List Move), s.sched = .arrive b :: rest → b ≠ 0x00#8 →
      decode (.rx b) = .ok i → step s = exec i { s with sched := rest }) ∧
    (∀ (s : State) (rest : List Move), s.sched = .timeout :: rest → step s = exec .noData { s with sched := rest }) ∧
    ∀ (s : State) (w : Nat), w < 16 → ∃ i d, decodeTableWord 4 w = some i ∧ encodeCommand i = some d ∧
      step (s.withFetchWord 4 w) = exec i { s with
        busy := false, seq := .idle, reading := false, abortReq := false, draw := Draw.ok, port := some d }

/-- 42_link_sequencer R106, 10_state R22: the transitions ST1 to ST8 are the only ones of STATUS.SYNC, in every
state. -/
def Obligations.SyncTransitions : Prop :=
  ∀ s t : State, step s = .next t → t.sync ≠ s.sync →
    (s.nextMove.1 = .reset ∧ t.sync = .outOfSync) ∨
    (s.busy = true ∧ ∃ o, (s.seq = .call o .fs0 ∧ t.sync = .syncing) ∨ (s.seq = .call o .fs8 ∧ t.sync = .synced) ∨
      (s.seq = .call o .fsx ∧ t.sync = .outOfSync) ∨
      (s.seq = .call o .sp2 ∧ s.resp = 0x90#8 ∧ t.sync = .synced) ∨
      (s.seq = .call o .sp2 ∧ s.resp ≠ 0x90#8 ∧ t.sync = .outOfSync)) ∨
    (t.sync = .outOfSync ∧ ∃ ev, t.hist = s.hist ++ ev ∧ Event.fault .transportError ∈ ev) ∨
    (t.sync = .outOfSync ∧ s.abortReq = true ∧ t.abortReq = false ∧ t.aborted = true)

/-- 10_state R22, 42_link_sequencer R106: no instruction tests STATUS.SYNC: in two states that differ only in it, the
next states differ at most in it. -/
def Obligations.NothingTestsSync : Prop :=
  ∀ (i : Instr) (s t : State) (v : SyncStatus), exec i s = .next t →
    ∃ v', exec i { s with sync := v } = .next { t with sync := v' }

/-- 10_state R39: H is only appended to, and no instruction reads it. -/
def Obligations.HistoryNeverRead : Prop :=
  ∀ (i : Instr) (s t : State) (h : List Event), exec i s = .next t →
    ∃ ev, t.hist = s.hist ++ ev ∧ exec i { s with hist := h } = .next { t with hist := h ++ ev }

/-- 10_state R32, 40_payload_encoder R80: outside reset the OUT registers change only in a step of an executing pure
command, and each only in its own command's. -/
def Obligations.OutRegistersChange : Prop :=
  ∀ s t : State, step s = .next t → s.nextMove.1 ≠ .reset →
    (t.outCrc ≠ s.outCrc → s.busy = true ∧ s.cmdOp = 0x1#4) ∧ (t.outPkt ≠ s.outPkt → s.busy = true ∧ s.cmdOp = 0x2#4) ∧
    (t.outDpad ≠ s.outDpad → s.busy = true ∧ s.cmdOp = 0xA#4) ∧ (t.outXY ≠ s.outXY → s.busy = true ∧ s.cmdOp = 0xB#4) ∧
    (t.outPayload ≠ s.outPayload → s.busy = true ∧ s.cmdOp = 0xC#4)

/-- 10_state R23, R25, R27, 60_exceptions R142: outside reset the first fault's three registers, a closed link and
STATUS.ABORTED stay. -/
def Obligations.StickyUntilReset : Prop :=
  ∀ s t : State, step s = .next t → s.nextMove.1 ≠ .reset →
    (s.fault ≠ .none → t.fault = s.fault ∧ t.faultOp = s.faultOp ∧ t.faultStep = s.faultStep) ∧
    (s.link = .closed → t.link = .closed) ∧ (s.aborted = true → t.aborted = true)

/-- 20_memory R50, 42_link_sequencer R122: after Close nothing is sent, nothing is read and nothing is closed again;
only faults and completions are recorded. -/
def Obligations.ClosedLinkIsSilent : Prop :=
  ∀ s t : State, Inv s → s.link = .closed → s.nextMove.1 ≠ .reset → step s = .next t →
    t.tx = s.tx ∧ ∃ ev, t.hist = s.hist ++ ev ∧ ∀ e ∈ ev, (∃ c, e = .fault c) ∨ ∃ op ok, e = .done op ok

/-- The invariant of the machine (10_state R22 to R34, 20_memory R48, R53, 42_link_sequencer R106, R113, R122,
60_exceptions R134, R138; each clause cites its rule in Safety.lean) is kept by every step, from every state that has
it. -/
def Obligations.InvariantKept : Prop :=
  ∀ s t : State, Inv s → step s = .next t → Inv t

/-- The invariant holds at reset. RXF there is a free value within RX_CAPACITY (log 5). -/
def Obligations.InvariantAtReset : Prop := Inv State.reset

/-- 30_encoding R75, 10_state R30: in every state with the invariant the machine takes a step: no stop of the model's
own is reached, whatever the moves. -/
def Obligations.StepNeverStops : Prop :=
  ∀ s : State, Inv s → ∃ t, step s = .next t

/-- 70_reset_and_hazards R151: reset, in one step from any state, puts every Core element at its value of 10_state R41
(TMP has none), sends nothing, and the Core then waits for the Host's first command. RXF stays (R152). -/
def Obligations.ResetLeaves : Prop :=
  ∀ s : State, ∃ t, runMove .reset s = .next t ∧ t.sync = .outOfSync ∧ t.link = .opened ∧ t.busy = false ∧
    t.fault = .none ∧ t.faultOp = 0x0#4 ∧ t.faultStep = .accept ∧ t.aborted = false ∧ t.result = false ∧
    t.resp = 0x00#8 ∧ t.crcAcc = 0x00#8 ∧ packetBytes t.pktBuf = List.replicate 9 0x00#8 ∧ t.seq = .idle ∧
    t.cmd = none ∧ t.outCrc = 0x00#8 ∧ t.outDpad = 0x00#8 ∧ t.outXY = (0x00#8, 0x00#8) ∧
    packetBytes t.outPkt = List.replicate 9 0x00#8 ∧ payloadBytes t.outPayload = List.replicate 8 0x00#8 ∧
    t.abortReq = false ∧ t.hist = [] ∧ t.statReg = 0x0004#16 ∧ t.rxf = s.rxf ∧ t.tx = s.tx ∧
    (s.port = none → ∀ d, runMove (.core d) t = .next { t with draw := d })

/-- 10_state R35, R36, R37, 30_encoding R74: the fields of STATREG, and what the Host's own moves do: reading and
writing STATREG nothing, raising ABORT_REQ only that, presenting a descriptor only the port. -/
def Obligations.StatusWordAndHostMoves : Prop :=
  ∀ s : State,
    (s.statReg.extractLsb' 0 2 = match s.sync with | .outOfSync => 0#2 | .syncing => 1#2 | .synced => 2#2) ∧
    (s.statReg.extractLsb' 2 1 = if s.link = .opened then 1#1 else 0#1) ∧
    (s.statReg.extractLsb' 3 1 = if s.busy then 1#1 else 0#1) ∧
    (s.statReg.extractLsb' 4 1 = if s.result then 1#1 else 0#1) ∧
    (s.statReg.extractLsb' 5 1 = if s.aborted then 1#1 else 0#1) ∧ s.statReg.extractLsb' 6 2 = 0#2 ∧
    (s.statReg.extractLsb' 8 3 = match s.fault with
      | .none => 0#3 | .transportError => 1#3 | .illegalCommand => 2#3 | .linkClosed => 3#3 | .badOperand => 4#3) ∧
    s.statReg.extractLsb' 11 5 = 0#5 ∧
    (∀ v, runMove (.hostWriteStatReg v) s = .next s) ∧ runMove .hostRead s = .next s ∧
    runMove .abort s = .next { s with abortReq := true } ∧
    ∀ d, runMove (.present d) s = .next { s with port := some (s.port.getD d) }

/-- 60_exceptions R150, 20_memory R47, 30_encoding R76, 42_link_sequencer R115, 70_reset_and_hazards R164: what the
named premises keep of the moves, each by itself, and that a program's next descriptor is presented only after the
previous command has completed; and a Host program of one FORCE_SYNC from an idle Core against a device that does
ECHO_SYNC, with no transport error, ends final in the thirteen moves the premises allow it. The form of the premises,
under which a byte that a full RXF loses counts as delivered, is log 29. -/
def Obligations.EchoSyncBench : Prop :=
  (∀ (b c : Bench) (m : Move), b.step m = some c →
    (b.premises.noTransportError = true → ∀ d, m = .core d → d.fails = false) ∧
    ((b.premises.acks ≠ none ∨ b.premises.echoSync = true) → ∀ x, m = .arrive x →
      b.owed = x :: c.owed) ∧
    (b.owed ≠ [] → ∀ d, m ≠ .core d) ∧
    (b.premises.respondsInTime = true → b.owed ≠ [] → m ≠ .timeout) ∧
    (∀ d, m = .present d → b.program = d :: c.program ∧ b.st.port = none ∧ b.st.busy = false)) ∧
  ∀ (acks : Option (List (Option Byte))) (inTime : Bool) (m : Nat → Draw) (d : Descriptor) (s : State), s.idleReady →
    s.link = .opened → s.rxf = [] → s.port = none → d.op = 0x5#4 → (∀ k, (m k).fails = false) →
    ∃ b, Bench.run [.present d, .core (m 0), .core (m 1), .arrive 0xFF#8, .core (m 2), .core (m 3), .core (m 4),
        .arrive 0xCC#8, .core (m 5), .core (m 6), .arrive 0x33#8, .core (m 7), .core (m 8)]
        { premises := { noTransportError := true, acks := acks, echoSync := true, respondsInTime := inTime }
          program := [d], owed := [], st := s } = some b ∧ b.owed = [] ∧ b.final = true ∧ b.st.cmd = some d ∧
      b.st.result = true ∧ b.st.sync = .synced ∧ b.st.resp = 0x33#8 ∧ b.st.rxf = [] ∧
      b.st.hist = s.hist ++ [.tx (List.replicate 9 0xFF#8), .avail 1, .rx [0xFF#8], .tx [0x33#8], .rx [0xCC#8],
        .tx [0xCC#8], .rx [0x33#8], .done 0x5#4 true]

end
end

