-- ==== Sys2Proof/Laws/State.lean ====
section
/-! SUPPORT. One lemma for each field of the state and each small update, true by definition or by the update's one
case split, so that no later proof unfolds an update. -/

set_option linter.unusedSimpArgs false

namespace Sys2Proof.Machine

variable (s : State)


/-! ### `log` -/

@[simp] theorem State.log_sync (e : Event) : (s.log e).sync = s.sync := rfl
@[simp] theorem State.log_link (e : Event) : (s.log e).link = s.link := rfl
@[simp] theorem State.log_busy (e : Event) : (s.log e).busy = s.busy := rfl
@[simp] theorem State.log_fault (e : Event) : (s.log e).fault = s.fault := rfl
@[simp] theorem State.log_faultOp (e : Event) : (s.log e).faultOp = s.faultOp := rfl
@[simp] theorem State.log_faultStep (e : Event) : (s.log e).faultStep = s.faultStep := rfl
@[simp] theorem State.log_aborted (e : Event) : (s.log e).aborted = s.aborted := rfl
@[simp] theorem State.log_result (e : Event) : (s.log e).result = s.result := rfl
@[simp] theorem State.log_resp (e : Event) : (s.log e).resp = s.resp := rfl
@[simp] theorem State.log_crcAcc (e : Event) : (s.log e).crcAcc = s.crcAcc := rfl
@[simp] theorem State.log_pktBuf (e : Event) : (s.log e).pktBuf = s.pktBuf := rfl
@[simp] theorem State.log_seq (e : Event) : (s.log e).seq = s.seq := rfl
@[simp] theorem State.log_cmd (e : Event) : (s.log e).cmd = s.cmd := rfl
@[simp] theorem State.log_outCrc (e : Event) : (s.log e).outCrc = s.outCrc := rfl
@[simp] theorem State.log_outPkt (e : Event) : (s.log e).outPkt = s.outPkt := rfl
@[simp] theorem State.log_outDpad (e : Event) : (s.log e).outDpad = s.outDpad := rfl
@[simp] theorem State.log_outXY (e : Event) : (s.log e).outXY = s.outXY := rfl
@[simp] theorem State.log_outPayload (e : Event) : (s.log e).outPayload = s.outPayload := rfl
@[simp] theorem State.log_tmpNavail (e : Event) : (s.log e).tmpNavail = s.tmpNavail := rfl
@[simp] theorem State.log_tmpOk1 (e : Event) : (s.log e).tmpOk1 = s.tmpOk1 := rfl
@[simp] theorem State.log_tmpOk (e : Event) : (s.log e).tmpOk = s.tmpOk := rfl
@[simp] theorem State.log_tmpVisit (e : Event) : (s.log e).tmpVisit = s.tmpVisit := rfl
@[simp] theorem State.log_reading (e : Event) : (s.log e).reading = s.reading := rfl
@[simp] theorem State.log_abortReq (e : Event) : (s.log e).abortReq = s.abortReq := rfl
@[simp] theorem State.log_rxf (e : Event) : (s.log e).rxf = s.rxf := rfl
@[simp] theorem State.log_tx (e : Event) : (s.log e).tx = s.tx := rfl
@[simp] theorem State.log_hist (e : Event) : (s.log e).hist = s.hist ++ [e] := rfl
@[simp] theorem State.log_port (e : Event) : (s.log e).port = s.port := rfl
@[simp] theorem State.log_draw (e : Event) : (s.log e).draw = s.draw := rfl
@[simp] theorem State.log_sched (e : Event) : (s.log e).sched = s.sched := rfl
@[simp] theorem State.log_tick (e : Event) : (s.log e).tick = s.tick := rfl
@[simp] theorem State.log_cmdOp (e : Event) : (s.log e).cmdOp = s.cmdOp := rfl

/-! ### `goto` -/

@[simp] theorem State.goto_sync (q : Seq) : (s.goto q).sync = s.sync := rfl
@[simp] theorem State.goto_link (q : Seq) : (s.goto q).link = s.link := rfl
@[simp] theorem State.goto_busy (q : Seq) : (s.goto q).busy = s.busy := rfl
@[simp] theorem State.goto_fault (q : Seq) : (s.goto q).fault = s.fault := rfl
@[simp] theorem State.goto_faultOp (q : Seq) : (s.goto q).faultOp = s.faultOp := rfl
@[simp] theorem State.goto_faultStep (q : Seq) : (s.goto q).faultStep = s.faultStep := rfl
@[simp] theorem State.goto_aborted (q : Seq) : (s.goto q).aborted = s.aborted := rfl
@[simp] theorem State.goto_result (q : Seq) : (s.goto q).result = s.result := rfl
@[simp] theorem State.goto_resp (q : Seq) : (s.goto q).resp = s.resp := rfl
@[simp] theorem State.goto_crcAcc (q : Seq) : (s.goto q).crcAcc = s.crcAcc := rfl
@[simp] theorem State.goto_pktBuf (q : Seq) : (s.goto q).pktBuf = s.pktBuf := rfl
@[simp] theorem State.goto_seq (q : Seq) : (s.goto q).seq = q := rfl
@[simp] theorem State.goto_cmd (q : Seq) : (s.goto q).cmd = s.cmd := rfl
@[simp] theorem State.goto_outCrc (q : Seq) : (s.goto q).outCrc = s.outCrc := rfl
@[simp] theorem State.goto_outPkt (q : Seq) : (s.goto q).outPkt = s.outPkt := rfl
@[simp] theorem State.goto_outDpad (q : Seq) : (s.goto q).outDpad = s.outDpad := rfl
@[simp] theorem State.goto_outXY (q : Seq) : (s.goto q).outXY = s.outXY := rfl
@[simp] theorem State.goto_outPayload (q : Seq) : (s.goto q).outPayload = s.outPayload := rfl
@[simp] theorem State.goto_tmpNavail (q : Seq) : (s.goto q).tmpNavail = s.tmpNavail := rfl
@[simp] theorem State.goto_tmpOk1 (q : Seq) : (s.goto q).tmpOk1 = s.tmpOk1 := rfl
@[simp] theorem State.goto_tmpOk (q : Seq) : (s.goto q).tmpOk = s.tmpOk := rfl
@[simp] theorem State.goto_tmpVisit (q : Seq) : (s.goto q).tmpVisit = s.tmpVisit := rfl
@[simp] theorem State.goto_reading (q : Seq) : (s.goto q).reading = s.reading := rfl
@[simp] theorem State.goto_abortReq (q : Seq) : (s.goto q).abortReq = s.abortReq := rfl
@[simp] theorem State.goto_rxf (q : Seq) : (s.goto q).rxf = s.rxf := rfl
@[simp] theorem State.goto_tx (q : Seq) : (s.goto q).tx = s.tx := rfl
@[simp] theorem State.goto_hist (q : Seq) : (s.goto q).hist = s.hist := rfl
@[simp] theorem State.goto_port (q : Seq) : (s.goto q).port = s.port := rfl
@[simp] theorem State.goto_draw (q : Seq) : (s.goto q).draw = s.draw := rfl
@[simp] theorem State.goto_sched (q : Seq) : (s.goto q).sched = s.sched := rfl
@[simp] theorem State.goto_tick (q : Seq) : (s.goto q).tick = s.tick := rfl
@[simp] theorem State.goto_cmdOp (q : Seq) : (s.goto q).cmdOp = s.cmdOp := rfl

/-! ### `complete` -/

@[simp] theorem State.complete_sync (ok : Bool) : (s.complete ok).sync = s.sync := rfl
@[simp] theorem State.complete_link (ok : Bool) : (s.complete ok).link = s.link := rfl
@[simp] theorem State.complete_busy (ok : Bool) : (s.complete ok).busy = false := rfl
@[simp] theorem State.complete_fault (ok : Bool) : (s.complete ok).fault = s.fault := rfl
@[simp] theorem State.complete_faultOp (ok : Bool) : (s.complete ok).faultOp = s.faultOp := rfl
@[simp] theorem State.complete_faultStep (ok : Bool) : (s.complete ok).faultStep = s.faultStep := rfl
@[simp] theorem State.complete_aborted (ok : Bool) : (s.complete ok).aborted = s.aborted := rfl
@[simp] theorem State.complete_result (ok : Bool) : (s.complete ok).result = ok := rfl
@[simp] theorem State.complete_resp (ok : Bool) : (s.complete ok).resp = s.resp := rfl
@[simp] theorem State.complete_crcAcc (ok : Bool) : (s.complete ok).crcAcc = s.crcAcc := rfl
@[simp] theorem State.complete_pktBuf (ok : Bool) : (s.complete ok).pktBuf = s.pktBuf := rfl
@[simp] theorem State.complete_seq (ok : Bool) : (s.complete ok).seq = .idle := rfl
@[simp] theorem State.complete_cmd (ok : Bool) : (s.complete ok).cmd = s.cmd := rfl
@[simp] theorem State.complete_outCrc (ok : Bool) : (s.complete ok).outCrc = s.outCrc := rfl
@[simp] theorem State.complete_outPkt (ok : Bool) : (s.complete ok).outPkt = s.outPkt := rfl
@[simp] theorem State.complete_outDpad (ok : Bool) : (s.complete ok).outDpad = s.outDpad := rfl
@[simp] theorem State.complete_outXY (ok : Bool) : (s.complete ok).outXY = s.outXY := rfl
@[simp] theorem State.complete_outPayload (ok : Bool) : (s.complete ok).outPayload = s.outPayload := rfl
@[simp] theorem State.complete_tmpNavail (ok : Bool) : (s.complete ok).tmpNavail = s.tmpNavail := rfl
@[simp] theorem State.complete_tmpOk1 (ok : Bool) : (s.complete ok).tmpOk1 = s.tmpOk1 := rfl
@[simp] theorem State.complete_tmpOk (ok : Bool) : (s.complete ok).tmpOk = s.tmpOk := rfl
@[simp] theorem State.complete_tmpVisit (ok : Bool) : (s.complete ok).tmpVisit = s.tmpVisit := rfl
@[simp] theorem State.complete_reading (ok : Bool) : (s.complete ok).reading = s.reading := rfl
@[simp] theorem State.complete_abortReq (ok : Bool) : (s.complete ok).abortReq = (s.abortReq && !(s.cmdOp == opTeardown)) := rfl
@[simp] theorem State.complete_rxf (ok : Bool) : (s.complete ok).rxf = s.rxf := rfl
@[simp] theorem State.complete_tx (ok : Bool) : (s.complete ok).tx = s.tx := rfl
@[simp] theorem State.complete_hist (ok : Bool) : (s.complete ok).hist = s.hist ++ [.done s.cmdOp ok] := rfl
@[simp] theorem State.complete_port (ok : Bool) : (s.complete ok).port = s.port := rfl
@[simp] theorem State.complete_draw (ok : Bool) : (s.complete ok).draw = s.draw := rfl
@[simp] theorem State.complete_sched (ok : Bool) : (s.complete ok).sched = s.sched := rfl
@[simp] theorem State.complete_tick (ok : Bool) : (s.complete ok).tick = s.tick := rfl
@[simp] theorem State.complete_cmdOp (ok : Bool) : (s.complete ok).cmdOp = s.cmdOp := rfl

/-! ### `endFaulted` -/

@[simp] theorem State.endFaulted_sync : (s.endFaulted).sync = s.sync := rfl
@[simp] theorem State.endFaulted_link : (s.endFaulted).link = s.link := rfl
@[simp] theorem State.endFaulted_busy : (s.endFaulted).busy = false := rfl
@[simp] theorem State.endFaulted_fault : (s.endFaulted).fault = s.fault := rfl
@[simp] theorem State.endFaulted_faultOp : (s.endFaulted).faultOp = s.faultOp := rfl
@[simp] theorem State.endFaulted_faultStep : (s.endFaulted).faultStep = s.faultStep := rfl
@[simp] theorem State.endFaulted_aborted : (s.endFaulted).aborted = s.aborted := rfl
@[simp] theorem State.endFaulted_result : (s.endFaulted).result = false := rfl
@[simp] theorem State.endFaulted_resp : (s.endFaulted).resp = s.resp := rfl
@[simp] theorem State.endFaulted_crcAcc : (s.endFaulted).crcAcc = s.crcAcc := rfl
@[simp] theorem State.endFaulted_pktBuf : (s.endFaulted).pktBuf = s.pktBuf := rfl
@[simp] theorem State.endFaulted_seq : (s.endFaulted).seq = .idle := rfl
@[simp] theorem State.endFaulted_cmd : (s.endFaulted).cmd = s.cmd := rfl
@[simp] theorem State.endFaulted_outCrc : (s.endFaulted).outCrc = s.outCrc := rfl
@[simp] theorem State.endFaulted_outPkt : (s.endFaulted).outPkt = s.outPkt := rfl
@[simp] theorem State.endFaulted_outDpad : (s.endFaulted).outDpad = s.outDpad := rfl
@[simp] theorem State.endFaulted_outXY : (s.endFaulted).outXY = s.outXY := rfl
@[simp] theorem State.endFaulted_outPayload : (s.endFaulted).outPayload = s.outPayload := rfl
@[simp] theorem State.endFaulted_tmpNavail : (s.endFaulted).tmpNavail = s.tmpNavail := rfl
@[simp] theorem State.endFaulted_tmpOk1 : (s.endFaulted).tmpOk1 = s.tmpOk1 := rfl
@[simp] theorem State.endFaulted_tmpOk : (s.endFaulted).tmpOk = s.tmpOk := rfl
@[simp] theorem State.endFaulted_tmpVisit : (s.endFaulted).tmpVisit = s.tmpVisit := rfl
@[simp] theorem State.endFaulted_reading : (s.endFaulted).reading = s.reading := rfl
@[simp] theorem State.endFaulted_abortReq : (s.endFaulted).abortReq = s.abortReq := rfl
@[simp] theorem State.endFaulted_rxf : (s.endFaulted).rxf = s.rxf := rfl
@[simp] theorem State.endFaulted_tx : (s.endFaulted).tx = s.tx := rfl
@[simp] theorem State.endFaulted_hist : (s.endFaulted).hist = s.hist ++ [.done s.cmdOp false] := rfl
@[simp] theorem State.endFaulted_port : (s.endFaulted).port = s.port := rfl
@[simp] theorem State.endFaulted_draw : (s.endFaulted).draw = s.draw := rfl
@[simp] theorem State.endFaulted_sched : (s.endFaulted).sched = s.sched := rfl
@[simp] theorem State.endFaulted_tick : (s.endFaulted).tick = s.tick := rfl
@[simp] theorem State.endFaulted_cmdOp : (s.endFaulted).cmdOp = s.cmdOp := rfl

/-! ### `closeLink` -/

@[simp] theorem State.closeLink_sync : (s.closeLink).sync = s.sync := rfl
@[simp] theorem State.closeLink_link : (s.closeLink).link = .closed := rfl
@[simp] theorem State.closeLink_busy : (s.closeLink).busy = s.busy := rfl
@[simp] theorem State.closeLink_fault : (s.closeLink).fault = s.fault := rfl
@[simp] theorem State.closeLink_faultOp : (s.closeLink).faultOp = s.faultOp := rfl
@[simp] theorem State.closeLink_faultStep : (s.closeLink).faultStep = s.faultStep := rfl
@[simp] theorem State.closeLink_aborted : (s.closeLink).aborted = s.aborted := rfl
@[simp] theorem State.closeLink_result : (s.closeLink).result = s.result := rfl
@[simp] theorem State.closeLink_resp : (s.closeLink).resp = s.resp := rfl
@[simp] theorem State.closeLink_crcAcc : (s.closeLink).crcAcc = s.crcAcc := rfl
@[simp] theorem State.closeLink_pktBuf : (s.closeLink).pktBuf = s.pktBuf := rfl
@[simp] theorem State.closeLink_seq : (s.closeLink).seq = s.seq := rfl
@[simp] theorem State.closeLink_cmd : (s.closeLink).cmd = s.cmd := rfl
@[simp] theorem State.closeLink_outCrc : (s.closeLink).outCrc = s.outCrc := rfl
@[simp] theorem State.closeLink_outPkt : (s.closeLink).outPkt = s.outPkt := rfl
@[simp] theorem State.closeLink_outDpad : (s.closeLink).outDpad = s.outDpad := rfl
@[simp] theorem State.closeLink_outXY : (s.closeLink).outXY = s.outXY := rfl
@[simp] theorem State.closeLink_outPayload : (s.closeLink).outPayload = s.outPayload := rfl
@[simp] theorem State.closeLink_tmpNavail : (s.closeLink).tmpNavail = s.tmpNavail := rfl
@[simp] theorem State.closeLink_tmpOk1 : (s.closeLink).tmpOk1 = s.tmpOk1 := rfl
@[simp] theorem State.closeLink_tmpOk : (s.closeLink).tmpOk = s.tmpOk := rfl
@[simp] theorem State.closeLink_tmpVisit : (s.closeLink).tmpVisit = s.tmpVisit := rfl
@[simp] theorem State.closeLink_reading : (s.closeLink).reading = s.reading := rfl
@[simp] theorem State.closeLink_abortReq : (s.closeLink).abortReq = s.abortReq := rfl
@[simp] theorem State.closeLink_rxf : (s.closeLink).rxf = s.rxf := rfl
@[simp] theorem State.closeLink_tx : (s.closeLink).tx = s.tx := rfl
@[simp] theorem State.closeLink_hist : (s.closeLink).hist = s.hist ++ [.close] := rfl
@[simp] theorem State.closeLink_port : (s.closeLink).port = s.port := rfl
@[simp] theorem State.closeLink_draw : (s.closeLink).draw = s.draw := rfl
@[simp] theorem State.closeLink_sched : (s.closeLink).sched = s.sched := rfl
@[simp] theorem State.closeLink_tick : (s.closeLink).tick = s.tick := rfl
@[simp] theorem State.closeLink_cmdOp : (s.closeLink).cmdOp = s.cmdOp := rfl

/-! ### `waitThen` -/

@[simp] theorem State.waitThen_sync (t : Seconds) (q : Seq) : (s.waitThen t q).sync = s.sync := rfl
@[simp] theorem State.waitThen_link (t : Seconds) (q : Seq) : (s.waitThen t q).link = s.link := rfl
@[simp] theorem State.waitThen_busy (t : Seconds) (q : Seq) : (s.waitThen t q).busy = s.busy := rfl
@[simp] theorem State.waitThen_fault (t : Seconds) (q : Seq) : (s.waitThen t q).fault = s.fault := rfl
@[simp] theorem State.waitThen_faultOp (t : Seconds) (q : Seq) : (s.waitThen t q).faultOp = s.faultOp := rfl
@[simp] theorem State.waitThen_faultStep (t : Seconds) (q : Seq) : (s.waitThen t q).faultStep = s.faultStep := rfl
@[simp] theorem State.waitThen_aborted (t : Seconds) (q : Seq) : (s.waitThen t q).aborted = s.aborted := rfl
@[simp] theorem State.waitThen_result (t : Seconds) (q : Seq) : (s.waitThen t q).result = s.result := rfl
@[simp] theorem State.waitThen_resp (t : Seconds) (q : Seq) : (s.waitThen t q).resp = s.resp := rfl
@[simp] theorem State.waitThen_crcAcc (t : Seconds) (q : Seq) : (s.waitThen t q).crcAcc = s.crcAcc := rfl
@[simp] theorem State.waitThen_pktBuf (t : Seconds) (q : Seq) : (s.waitThen t q).pktBuf = s.pktBuf := rfl
@[simp] theorem State.waitThen_seq (t : Seconds) (q : Seq) : (s.waitThen t q).seq = q := rfl
@[simp] theorem State.waitThen_cmd (t : Seconds) (q : Seq) : (s.waitThen t q).cmd = s.cmd := rfl
@[simp] theorem State.waitThen_outCrc (t : Seconds) (q : Seq) : (s.waitThen t q).outCrc = s.outCrc := rfl
@[simp] theorem State.waitThen_outPkt (t : Seconds) (q : Seq) : (s.waitThen t q).outPkt = s.outPkt := rfl
@[simp] theorem State.waitThen_outDpad (t : Seconds) (q : Seq) : (s.waitThen t q).outDpad = s.outDpad := rfl
@[simp] theorem State.waitThen_outXY (t : Seconds) (q : Seq) : (s.waitThen t q).outXY = s.outXY := rfl
@[simp] theorem State.waitThen_outPayload (t : Seconds) (q : Seq) : (s.waitThen t q).outPayload = s.outPayload := rfl
@[simp] theorem State.waitThen_tmpNavail (t : Seconds) (q : Seq) : (s.waitThen t q).tmpNavail = s.tmpNavail := rfl
@[simp] theorem State.waitThen_tmpOk1 (t : Seconds) (q : Seq) : (s.waitThen t q).tmpOk1 = s.tmpOk1 := rfl
@[simp] theorem State.waitThen_tmpOk (t : Seconds) (q : Seq) : (s.waitThen t q).tmpOk = s.tmpOk := rfl
@[simp] theorem State.waitThen_tmpVisit (t : Seconds) (q : Seq) : (s.waitThen t q).tmpVisit = s.tmpVisit := rfl
@[simp] theorem State.waitThen_reading (t : Seconds) (q : Seq) : (s.waitThen t q).reading = s.reading := rfl
@[simp] theorem State.waitThen_abortReq (t : Seconds) (q : Seq) : (s.waitThen t q).abortReq = s.abortReq := rfl
@[simp] theorem State.waitThen_rxf (t : Seconds) (q : Seq) : (s.waitThen t q).rxf = s.rxf := rfl
@[simp] theorem State.waitThen_tx (t : Seconds) (q : Seq) : (s.waitThen t q).tx = s.tx := rfl
@[simp] theorem State.waitThen_hist (t : Seconds) (q : Seq) : (s.waitThen t q).hist = s.hist ++ [.wait t] := rfl
@[simp] theorem State.waitThen_port (t : Seconds) (q : Seq) : (s.waitThen t q).port = s.port := rfl
@[simp] theorem State.waitThen_draw (t : Seconds) (q : Seq) : (s.waitThen t q).draw = s.draw := rfl
@[simp] theorem State.waitThen_sched (t : Seconds) (q : Seq) : (s.waitThen t q).sched = s.sched := rfl
@[simp] theorem State.waitThen_tick (t : Seconds) (q : Seq) : (s.waitThen t q).tick = s.tick := rfl
@[simp] theorem State.waitThen_cmdOp (t : Seconds) (q : Seq) : (s.waitThen t q).cmdOp = s.cmdOp := rfl

/-! ### `readReturns` -/

@[simp] theorem State.readReturns_sync (o : Label) (c : SubLabel) (n : Nat) : (s.readReturns o c n).sync = s.sync := rfl
@[simp] theorem State.readReturns_link (o : Label) (c : SubLabel) (n : Nat) : (s.readReturns o c n).link = s.link := rfl
@[simp] theorem State.readReturns_busy (o : Label) (c : SubLabel) (n : Nat) : (s.readReturns o c n).busy = s.busy := rfl
@[simp] theorem State.readReturns_fault (o : Label) (c : SubLabel) (n : Nat) : (s.readReturns o c n).fault = s.fault := rfl
@[simp] theorem State.readReturns_faultOp (o : Label) (c : SubLabel) (n : Nat) : (s.readReturns o c n).faultOp = s.faultOp := rfl
@[simp] theorem State.readReturns_faultStep (o : Label) (c : SubLabel) (n : Nat) : (s.readReturns o c n).faultStep = s.faultStep := rfl
@[simp] theorem State.readReturns_aborted (o : Label) (c : SubLabel) (n : Nat) : (s.readReturns o c n).aborted = s.aborted := rfl
@[simp] theorem State.readReturns_result (o : Label) (c : SubLabel) (n : Nat) : (s.readReturns o c n).result = s.result := rfl
@[simp] theorem State.readReturns_resp (o : Label) (c : SubLabel) (n : Nat) : (s.readReturns o c n).resp = lastByte (s.rxf.take n) := rfl
@[simp] theorem State.readReturns_crcAcc (o : Label) (c : SubLabel) (n : Nat) : (s.readReturns o c n).crcAcc = s.crcAcc := rfl
@[simp] theorem State.readReturns_pktBuf (o : Label) (c : SubLabel) (n : Nat) : (s.readReturns o c n).pktBuf = s.pktBuf := rfl
@[simp] theorem State.readReturns_seq (o : Label) (c : SubLabel) (n : Nat) : (s.readReturns o c n).seq = .call o (afterRead c (lastByte (s.rxf.take n))) := rfl
@[simp] theorem State.readReturns_cmd (o : Label) (c : SubLabel) (n : Nat) : (s.readReturns o c n).cmd = s.cmd := rfl
@[simp] theorem State.readReturns_outCrc (o : Label) (c : SubLabel) (n : Nat) : (s.readReturns o c n).outCrc = s.outCrc := rfl
@[simp] theorem State.readReturns_outPkt (o : Label) (c : SubLabel) (n : Nat) : (s.readReturns o c n).outPkt = s.outPkt := rfl
@[simp] theorem State.readReturns_outDpad (o : Label) (c : SubLabel) (n : Nat) : (s.readReturns o c n).outDpad = s.outDpad := rfl
@[simp] theorem State.readReturns_outXY (o : Label) (c : SubLabel) (n : Nat) : (s.readReturns o c n).outXY = s.outXY := rfl
@[simp] theorem State.readReturns_outPayload (o : Label) (c : SubLabel) (n : Nat) : (s.readReturns o c n).outPayload = s.outPayload := rfl
@[simp] theorem State.readReturns_tmpNavail (o : Label) (c : SubLabel) (n : Nat) : (s.readReturns o c n).tmpNavail = s.tmpNavail := rfl
@[simp] theorem State.readReturns_tmpOk1 (o : Label) (c : SubLabel) (n : Nat) : (s.readReturns o c n).tmpOk1 = s.tmpOk1 := rfl
@[simp] theorem State.readReturns_tmpOk (o : Label) (c : SubLabel) (n : Nat) : (s.readReturns o c n).tmpOk = s.tmpOk := rfl
@[simp] theorem State.readReturns_tmpVisit (o : Label) (c : SubLabel) (n : Nat) : (s.readReturns o c n).tmpVisit = s.tmpVisit := rfl
@[simp] theorem State.readReturns_reading (o : Label) (c : SubLabel) (n : Nat) : (s.readReturns o c n).reading = false := rfl
@[simp] theorem State.readReturns_abortReq (o : Label) (c : SubLabel) (n : Nat) : (s.readReturns o c n).abortReq = s.abortReq := rfl
@[simp] theorem State.readReturns_rxf (o : Label) (c : SubLabel) (n : Nat) : (s.readReturns o c n).rxf = s.rxf.drop n := rfl
@[simp] theorem State.readReturns_tx (o : Label) (c : SubLabel) (n : Nat) : (s.readReturns o c n).tx = s.tx := rfl
@[simp] theorem State.readReturns_hist (o : Label) (c : SubLabel) (n : Nat) : (s.readReturns o c n).hist = s.hist ++ [.rx (s.rxf.take n)] := rfl
@[simp] theorem State.readReturns_port (o : Label) (c : SubLabel) (n : Nat) : (s.readReturns o c n).port = s.port := rfl
@[simp] theorem State.readReturns_draw (o : Label) (c : SubLabel) (n : Nat) : (s.readReturns o c n).draw = s.draw := rfl
@[simp] theorem State.readReturns_sched (o : Label) (c : SubLabel) (n : Nat) : (s.readReturns o c n).sched = s.sched := rfl
@[simp] theorem State.readReturns_tick (o : Label) (c : SubLabel) (n : Nat) : (s.readReturns o c n).tick = s.tick := rfl
@[simp] theorem State.readReturns_cmdOp (o : Label) (c : SubLabel) (n : Nat) : (s.readReturns o c n).cmdOp = s.cmdOp := rfl

/-! ### `recordFault` -/

@[simp] theorem State.recordFault_sync (c : FaultCode) (q : FaultStep) : (s.recordFault c q).sync = s.sync := by
  unfold State.recordFault
  by_cases h : s.fault = .none <;> simp [h, State.log, State.cmdOp]
@[simp] theorem State.recordFault_link (c : FaultCode) (q : FaultStep) : (s.recordFault c q).link = s.link := by
  unfold State.recordFault
  by_cases h : s.fault = .none <;> simp [h, State.log, State.cmdOp]
@[simp] theorem State.recordFault_busy (c : FaultCode) (q : FaultStep) : (s.recordFault c q).busy = s.busy := by
  unfold State.recordFault
  by_cases h : s.fault = .none <;> simp [h, State.log, State.cmdOp]
@[simp] theorem State.recordFault_fault (c : FaultCode) (q : FaultStep) : (s.recordFault c q).fault = (if s.fault = .none then c else s.fault) := by
  unfold State.recordFault
  by_cases h : s.fault = .none <;> simp [h, State.log, State.cmdOp]
@[simp] theorem State.recordFault_faultOp (c : FaultCode) (q : FaultStep) : (s.recordFault c q).faultOp = (if s.fault = .none then s.cmdOp else s.faultOp) := by
  unfold State.recordFault
  by_cases h : s.fault = .none <;> simp [h, State.log, State.cmdOp]
@[simp] theorem State.recordFault_faultStep (c : FaultCode) (q : FaultStep) : (s.recordFault c q).faultStep = (if s.fault = .none then q else s.faultStep) := by
  unfold State.recordFault
  by_cases h : s.fault = .none <;> simp [h, State.log, State.cmdOp]
@[simp] theorem State.recordFault_aborted (c : FaultCode) (q : FaultStep) : (s.recordFault c q).aborted = s.aborted := by
  unfold State.recordFault
  by_cases h : s.fault = .none <;> simp [h, State.log, State.cmdOp]
@[simp] theorem State.recordFault_result (c : FaultCode) (q : FaultStep) : (s.recordFault c q).result = s.result := by
  unfold State.recordFault
  by_cases h : s.fault = .none <;> simp [h, State.log, State.cmdOp]
@[simp] theorem State.recordFault_resp (c : FaultCode) (q : FaultStep) : (s.recordFault c q).resp = s.resp := by
  unfold State.recordFault
  by_cases h : s.fault = .none <;> simp [h, State.log, State.cmdOp]
@[simp] theorem State.recordFault_crcAcc (c : FaultCode) (q : FaultStep) : (s.recordFault c q).crcAcc = s.crcAcc := by
  unfold State.recordFault
  by_cases h : s.fault = .none <;> simp [h, State.log, State.cmdOp]
@[simp] theorem State.recordFault_pktBuf (c : FaultCode) (q : FaultStep) : (s.recordFault c q).pktBuf = s.pktBuf := by
  unfold State.recordFault
  by_cases h : s.fault = .none <;> simp [h, State.log, State.cmdOp]
@[simp] theorem State.recordFault_seq (c : FaultCode) (q : FaultStep) : (s.recordFault c q).seq = s.seq := by
  unfold State.recordFault
  by_cases h : s.fault = .none <;> simp [h, State.log, State.cmdOp]
@[simp] theorem State.recordFault_cmd (c : FaultCode) (q : FaultStep) : (s.recordFault c q).cmd = s.cmd := by
  unfold State.recordFault
  by_cases h : s.fault = .none <;> simp [h, State.log, State.cmdOp]
@[simp] theorem State.recordFault_outCrc (c : FaultCode) (q : FaultStep) : (s.recordFault c q).outCrc = s.outCrc := by
  unfold State.recordFault
  by_cases h : s.fault = .none <;> simp [h, State.log, State.cmdOp]
@[simp] theorem State.recordFault_outPkt (c : FaultCode) (q : FaultStep) : (s.recordFault c q).outPkt = s.outPkt := by
  unfold State.recordFault
  by_cases h : s.fault = .none <;> simp [h, State.log, State.cmdOp]
@[simp] theorem State.recordFault_outDpad (c : FaultCode) (q : FaultStep) : (s.recordFault c q).outDpad = s.outDpad := by
  unfold State.recordFault
  by_cases h : s.fault = .none <;> simp [h, State.log, State.cmdOp]
@[simp] theorem State.recordFault_outXY (c : FaultCode) (q : FaultStep) : (s.recordFault c q).outXY = s.outXY := by
  unfold State.recordFault
  by_cases h : s.fault = .none <;> simp [h, State.log, State.cmdOp]
@[simp] theorem State.recordFault_outPayload (c : FaultCode) (q : FaultStep) : (s.recordFault c q).outPayload = s.outPayload := by
  unfold State.recordFault
  by_cases h : s.fault = .none <;> simp [h, State.log, State.cmdOp]
@[simp] theorem State.recordFault_tmpNavail (c : FaultCode) (q : FaultStep) : (s.recordFault c q).tmpNavail = s.tmpNavail := by
  unfold State.recordFault
  by_cases h : s.fault = .none <;> simp [h, State.log, State.cmdOp]
@[simp] theorem State.recordFault_tmpOk1 (c : FaultCode) (q : FaultStep) : (s.recordFault c q).tmpOk1 = s.tmpOk1 := by
  unfold State.recordFault
  by_cases h : s.fault = .none <;> simp [h, State.log, State.cmdOp]
@[simp] theorem State.recordFault_tmpOk (c : FaultCode) (q : FaultStep) : (s.recordFault c q).tmpOk = s.tmpOk := by
  unfold State.recordFault
  by_cases h : s.fault = .none <;> simp [h, State.log, State.cmdOp]
@[simp] theorem State.recordFault_tmpVisit (c : FaultCode) (q : FaultStep) : (s.recordFault c q).tmpVisit = s.tmpVisit := by
  unfold State.recordFault
  by_cases h : s.fault = .none <;> simp [h, State.log, State.cmdOp]
@[simp] theorem State.recordFault_reading (c : FaultCode) (q : FaultStep) : (s.recordFault c q).reading = s.reading := by
  unfold State.recordFault
  by_cases h : s.fault = .none <;> simp [h, State.log, State.cmdOp]
@[simp] theorem State.recordFault_abortReq (c : FaultCode) (q : FaultStep) : (s.recordFault c q).abortReq = s.abortReq := by
  unfold State.recordFault
  by_cases h : s.fault = .none <;> simp [h, State.log, State.cmdOp]
@[simp] theorem State.recordFault_rxf (c : FaultCode) (q : FaultStep) : (s.recordFault c q).rxf = s.rxf := by
  unfold State.recordFault
  by_cases h : s.fault = .none <;> simp [h, State.log, State.cmdOp]
@[simp] theorem State.recordFault_tx (c : FaultCode) (q : FaultStep) : (s.recordFault c q).tx = s.tx := by
  unfold State.recordFault
  by_cases h : s.fault = .none <;> simp [h, State.log, State.cmdOp]
@[simp] theorem State.recordFault_hist (c : FaultCode) (q : FaultStep) : (s.recordFault c q).hist = s.hist ++ [.fault c] := by
  unfold State.recordFault
  by_cases h : s.fault = .none <;> simp [h, State.log, State.cmdOp]
@[simp] theorem State.recordFault_port (c : FaultCode) (q : FaultStep) : (s.recordFault c q).port = s.port := by
  unfold State.recordFault
  by_cases h : s.fault = .none <;> simp [h, State.log, State.cmdOp]
@[simp] theorem State.recordFault_draw (c : FaultCode) (q : FaultStep) : (s.recordFault c q).draw = s.draw := by
  unfold State.recordFault
  by_cases h : s.fault = .none <;> simp [h, State.log, State.cmdOp]
@[simp] theorem State.recordFault_sched (c : FaultCode) (q : FaultStep) : (s.recordFault c q).sched = s.sched := by
  unfold State.recordFault
  by_cases h : s.fault = .none <;> simp [h, State.log, State.cmdOp]
@[simp] theorem State.recordFault_tick (c : FaultCode) (q : FaultStep) : (s.recordFault c q).tick = s.tick := by
  unfold State.recordFault
  by_cases h : s.fault = .none <;> simp [h, State.log, State.cmdOp]
@[simp] theorem State.recordFault_cmdOp (c : FaultCode) (q : FaultStep) : (s.recordFault c q).cmdOp = s.cmdOp := by
  unfold State.recordFault
  by_cases h : s.fault = .none <;> simp [h, State.log, State.cmdOp]

/-! ### `presentOnPort` -/

@[simp] theorem State.presentOnPort_sync (d : Descriptor) : (s.presentOnPort d).sync = s.sync := by
  unfold State.presentOnPort
  cases h : s.port <;> simp [h, State.cmdOp]
@[simp] theorem State.presentOnPort_link (d : Descriptor) : (s.presentOnPort d).link = s.link := by
  unfold State.presentOnPort
  cases h : s.port <;> simp [h, State.cmdOp]
@[simp] theorem State.presentOnPort_busy (d : Descriptor) : (s.presentOnPort d).busy = s.busy := by
  unfold State.presentOnPort
  cases h : s.port <;> simp [h, State.cmdOp]
@[simp] theorem State.presentOnPort_fault (d : Descriptor) : (s.presentOnPort d).fault = s.fault := by
  unfold State.presentOnPort
  cases h : s.port <;> simp [h, State.cmdOp]
@[simp] theorem State.presentOnPort_faultOp (d : Descriptor) : (s.presentOnPort d).faultOp = s.faultOp := by
  unfold State.presentOnPort
  cases h : s.port <;> simp [h, State.cmdOp]
@[simp] theorem State.presentOnPort_faultStep (d : Descriptor) : (s.presentOnPort d).faultStep = s.faultStep := by
  unfold State.presentOnPort
  cases h : s.port <;> simp [h, State.cmdOp]
@[simp] theorem State.presentOnPort_aborted (d : Descriptor) : (s.presentOnPort d).aborted = s.aborted := by
  unfold State.presentOnPort
  cases h : s.port <;> simp [h, State.cmdOp]
@[simp] theorem State.presentOnPort_result (d : Descriptor) : (s.presentOnPort d).result = s.result := by
  unfold State.presentOnPort
  cases h : s.port <;> simp [h, State.cmdOp]
@[simp] theorem State.presentOnPort_resp (d : Descriptor) : (s.presentOnPort d).resp = s.resp := by
  unfold State.presentOnPort
  cases h : s.port <;> simp [h, State.cmdOp]
@[simp] theorem State.presentOnPort_crcAcc (d : Descriptor) : (s.presentOnPort d).crcAcc = s.crcAcc := by
  unfold State.presentOnPort
  cases h : s.port <;> simp [h, State.cmdOp]
@[simp] theorem State.presentOnPort_pktBuf (d : Descriptor) : (s.presentOnPort d).pktBuf = s.pktBuf := by
  unfold State.presentOnPort
  cases h : s.port <;> simp [h, State.cmdOp]
@[simp] theorem State.presentOnPort_seq (d : Descriptor) : (s.presentOnPort d).seq = s.seq := by
  unfold State.presentOnPort
  cases h : s.port <;> simp [h, State.cmdOp]
@[simp] theorem State.presentOnPort_cmd (d : Descriptor) : (s.presentOnPort d).cmd = s.cmd := by
  unfold State.presentOnPort
  cases h : s.port <;> simp [h, State.cmdOp]
@[simp] theorem State.presentOnPort_outCrc (d : Descriptor) : (s.presentOnPort d).outCrc = s.outCrc := by
  unfold State.presentOnPort
  cases h : s.port <;> simp [h, State.cmdOp]
@[simp] theorem State.presentOnPort_outPkt (d : Descriptor) : (s.presentOnPort d).outPkt = s.outPkt := by
  unfold State.presentOnPort
  cases h : s.port <;> simp [h, State.cmdOp]
@[simp] theorem State.presentOnPort_outDpad (d : Descriptor) : (s.presentOnPort d).outDpad = s.outDpad := by
  unfold State.presentOnPort
  cases h : s.port <;> simp [h, State.cmdOp]
@[simp] theorem State.presentOnPort_outXY (d : Descriptor) : (s.presentOnPort d).outXY = s.outXY := by
  unfold State.presentOnPort
  cases h : s.port <;> simp [h, State.cmdOp]
@[simp] theorem State.presentOnPort_outPayload (d : Descriptor) : (s.presentOnPort d).outPayload = s.outPayload := by
  unfold State.presentOnPort
  cases h : s.port <;> simp [h, State.cmdOp]
@[simp] theorem State.presentOnPort_tmpNavail (d : Descriptor) : (s.presentOnPort d).tmpNavail = s.tmpNavail := by
  unfold State.presentOnPort
  cases h : s.port <;> simp [h, State.cmdOp]
@[simp] theorem State.presentOnPort_tmpOk1 (d : Descriptor) : (s.presentOnPort d).tmpOk1 = s.tmpOk1 := by
  unfold State.presentOnPort
  cases h : s.port <;> simp [h, State.cmdOp]
@[simp] theorem State.presentOnPort_tmpOk (d : Descriptor) : (s.presentOnPort d).tmpOk = s.tmpOk := by
  unfold State.presentOnPort
  cases h : s.port <;> simp [h, State.cmdOp]
@[simp] theorem State.presentOnPort_tmpVisit (d : Descriptor) : (s.presentOnPort d).tmpVisit = s.tmpVisit := by
  unfold State.presentOnPort
  cases h : s.port <;> simp [h, State.cmdOp]
@[simp] theorem State.presentOnPort_reading (d : Descriptor) : (s.presentOnPort d).reading = s.reading := by
  unfold State.presentOnPort
  cases h : s.port <;> simp [h, State.cmdOp]
@[simp] theorem State.presentOnPort_abortReq (d : Descriptor) : (s.presentOnPort d).abortReq = s.abortReq := by
  unfold State.presentOnPort
  cases h : s.port <;> simp [h, State.cmdOp]
@[simp] theorem State.presentOnPort_rxf (d : Descriptor) : (s.presentOnPort d).rxf = s.rxf := by
  unfold State.presentOnPort
  cases h : s.port <;> simp [h, State.cmdOp]
@[simp] theorem State.presentOnPort_tx (d : Descriptor) : (s.presentOnPort d).tx = s.tx := by
  unfold State.presentOnPort
  cases h : s.port <;> simp [h, State.cmdOp]
@[simp] theorem State.presentOnPort_hist (d : Descriptor) : (s.presentOnPort d).hist = s.hist := by
  unfold State.presentOnPort
  cases h : s.port <;> simp [h, State.cmdOp]
@[simp] theorem State.presentOnPort_port (d : Descriptor) : (s.presentOnPort d).port = (some (s.port.getD d)) := by
  unfold State.presentOnPort
  cases h : s.port <;> simp [h, State.cmdOp]
@[simp] theorem State.presentOnPort_draw (d : Descriptor) : (s.presentOnPort d).draw = s.draw := by
  unfold State.presentOnPort
  cases h : s.port <;> simp [h, State.cmdOp]
@[simp] theorem State.presentOnPort_sched (d : Descriptor) : (s.presentOnPort d).sched = s.sched := by
  unfold State.presentOnPort
  cases h : s.port <;> simp [h, State.cmdOp]
@[simp] theorem State.presentOnPort_tick (d : Descriptor) : (s.presentOnPort d).tick = s.tick := by
  unfold State.presentOnPort
  cases h : s.port <;> simp [h, State.cmdOp]
@[simp] theorem State.presentOnPort_cmdOp (d : Descriptor) : (s.presentOnPort d).cmdOp = s.cmdOp := by
  unfold State.presentOnPort
  cases h : s.port <;> simp [h, State.cmdOp]

/-! ### `arriveWith` -/

@[simp] theorem State.arriveWith_sync (cap : Option { n : Nat // 1 ≤ n }) (b : Byte) : (s.arriveWith cap b).sync = s.sync := by
  unfold State.arriveWith
  by_cases h : rxFits cap s.rxf.length = true <;> simp [h, State.cmdOp]
@[simp] theorem State.arriveWith_link (cap : Option { n : Nat // 1 ≤ n }) (b : Byte) : (s.arriveWith cap b).link = s.link := by
  unfold State.arriveWith
  by_cases h : rxFits cap s.rxf.length = true <;> simp [h, State.cmdOp]
@[simp] theorem State.arriveWith_busy (cap : Option { n : Nat // 1 ≤ n }) (b : Byte) : (s.arriveWith cap b).busy = s.busy := by
  unfold State.arriveWith
  by_cases h : rxFits cap s.rxf.length = true <;> simp [h, State.cmdOp]
@[simp] theorem State.arriveWith_fault (cap : Option { n : Nat // 1 ≤ n }) (b : Byte) : (s.arriveWith cap b).fault = s.fault := by
  unfold State.arriveWith
  by_cases h : rxFits cap s.rxf.length = true <;> simp [h, State.cmdOp]
@[simp] theorem State.arriveWith_faultOp (cap : Option { n : Nat // 1 ≤ n }) (b : Byte) : (s.arriveWith cap b).faultOp = s.faultOp := by
  unfold State.arriveWith
  by_cases h : rxFits cap s.rxf.length = true <;> simp [h, State.cmdOp]
@[simp] theorem State.arriveWith_faultStep (cap : Option { n : Nat // 1 ≤ n }) (b : Byte) : (s.arriveWith cap b).faultStep = s.faultStep := by
  unfold State.arriveWith
  by_cases h : rxFits cap s.rxf.length = true <;> simp [h, State.cmdOp]
@[simp] theorem State.arriveWith_aborted (cap : Option { n : Nat // 1 ≤ n }) (b : Byte) : (s.arriveWith cap b).aborted = s.aborted := by
  unfold State.arriveWith
  by_cases h : rxFits cap s.rxf.length = true <;> simp [h, State.cmdOp]
@[simp] theorem State.arriveWith_result (cap : Option { n : Nat // 1 ≤ n }) (b : Byte) : (s.arriveWith cap b).result = s.result := by
  unfold State.arriveWith
  by_cases h : rxFits cap s.rxf.length = true <;> simp [h, State.cmdOp]
@[simp] theorem State.arriveWith_resp (cap : Option { n : Nat // 1 ≤ n }) (b : Byte) : (s.arriveWith cap b).resp = s.resp := by
  unfold State.arriveWith
  by_cases h : rxFits cap s.rxf.length = true <;> simp [h, State.cmdOp]
@[simp] theorem State.arriveWith_crcAcc (cap : Option { n : Nat // 1 ≤ n }) (b : Byte) : (s.arriveWith cap b).crcAcc = s.crcAcc := by
  unfold State.arriveWith
  by_cases h : rxFits cap s.rxf.length = true <;> simp [h, State.cmdOp]
@[simp] theorem State.arriveWith_pktBuf (cap : Option { n : Nat // 1 ≤ n }) (b : Byte) : (s.arriveWith cap b).pktBuf = s.pktBuf := by
  unfold State.arriveWith
  by_cases h : rxFits cap s.rxf.length = true <;> simp [h, State.cmdOp]
@[simp] theorem State.arriveWith_seq (cap : Option { n : Nat // 1 ≤ n }) (b : Byte) : (s.arriveWith cap b).seq = s.seq := by
  unfold State.arriveWith
  by_cases h : rxFits cap s.rxf.length = true <;> simp [h, State.cmdOp]
@[simp] theorem State.arriveWith_cmd (cap : Option { n : Nat // 1 ≤ n }) (b : Byte) : (s.arriveWith cap b).cmd = s.cmd := by
  unfold State.arriveWith
  by_cases h : rxFits cap s.rxf.length = true <;> simp [h, State.cmdOp]
@[simp] theorem State.arriveWith_outCrc (cap : Option { n : Nat // 1 ≤ n }) (b : Byte) : (s.arriveWith cap b).outCrc = s.outCrc := by
  unfold State.arriveWith
  by_cases h : rxFits cap s.rxf.length = true <;> simp [h, State.cmdOp]
@[simp] theorem State.arriveWith_outPkt (cap : Option { n : Nat // 1 ≤ n }) (b : Byte) : (s.arriveWith cap b).outPkt = s.outPkt := by
  unfold State.arriveWith
  by_cases h : rxFits cap s.rxf.length = true <;> simp [h, State.cmdOp]
@[simp] theorem State.arriveWith_outDpad (cap : Option { n : Nat // 1 ≤ n }) (b : Byte) : (s.arriveWith cap b).outDpad = s.outDpad := by
  unfold State.arriveWith
  by_cases h : rxFits cap s.rxf.length = true <;> simp [h, State.cmdOp]
@[simp] theorem State.arriveWith_outXY (cap : Option { n : Nat // 1 ≤ n }) (b : Byte) : (s.arriveWith cap b).outXY = s.outXY := by
  unfold State.arriveWith
  by_cases h : rxFits cap s.rxf.length = true <;> simp [h, State.cmdOp]
@[simp] theorem State.arriveWith_outPayload (cap : Option { n : Nat // 1 ≤ n }) (b : Byte) : (s.arriveWith cap b).outPayload = s.outPayload := by
  unfold State.arriveWith
  by_cases h : rxFits cap s.rxf.length = true <;> simp [h, State.cmdOp]
@[simp] theorem State.arriveWith_tmpNavail (cap : Option { n : Nat // 1 ≤ n }) (b : Byte) : (s.arriveWith cap b).tmpNavail = s.tmpNavail := by
  unfold State.arriveWith
  by_cases h : rxFits cap s.rxf.length = true <;> simp [h, State.cmdOp]
@[simp] theorem State.arriveWith_tmpOk1 (cap : Option { n : Nat // 1 ≤ n }) (b : Byte) : (s.arriveWith cap b).tmpOk1 = s.tmpOk1 := by
  unfold State.arriveWith
  by_cases h : rxFits cap s.rxf.length = true <;> simp [h, State.cmdOp]
@[simp] theorem State.arriveWith_tmpOk (cap : Option { n : Nat // 1 ≤ n }) (b : Byte) : (s.arriveWith cap b).tmpOk = s.tmpOk := by
  unfold State.arriveWith
  by_cases h : rxFits cap s.rxf.length = true <;> simp [h, State.cmdOp]
@[simp] theorem State.arriveWith_tmpVisit (cap : Option { n : Nat // 1 ≤ n }) (b : Byte) : (s.arriveWith cap b).tmpVisit = s.tmpVisit := by
  unfold State.arriveWith
  by_cases h : rxFits cap s.rxf.length = true <;> simp [h, State.cmdOp]
@[simp] theorem State.arriveWith_reading (cap : Option { n : Nat // 1 ≤ n }) (b : Byte) : (s.arriveWith cap b).reading = s.reading := by
  unfold State.arriveWith
  by_cases h : rxFits cap s.rxf.length = true <;> simp [h, State.cmdOp]
@[simp] theorem State.arriveWith_abortReq (cap : Option { n : Nat // 1 ≤ n }) (b : Byte) : (s.arriveWith cap b).abortReq = s.abortReq := by
  unfold State.arriveWith
  by_cases h : rxFits cap s.rxf.length = true <;> simp [h, State.cmdOp]
@[simp] theorem State.arriveWith_rxf (cap : Option { n : Nat // 1 ≤ n }) (b : Byte) : (s.arriveWith cap b).rxf = (if rxFits cap s.rxf.length then s.rxf ++ [b] else s.rxf) := by
  unfold State.arriveWith
  by_cases h : rxFits cap s.rxf.length = true <;> simp [h, State.cmdOp]
@[simp] theorem State.arriveWith_tx (cap : Option { n : Nat // 1 ≤ n }) (b : Byte) : (s.arriveWith cap b).tx = s.tx := by
  unfold State.arriveWith
  by_cases h : rxFits cap s.rxf.length = true <;> simp [h, State.cmdOp]
@[simp] theorem State.arriveWith_hist (cap : Option { n : Nat // 1 ≤ n }) (b : Byte) : (s.arriveWith cap b).hist = s.hist := by
  unfold State.arriveWith
  by_cases h : rxFits cap s.rxf.length = true <;> simp [h, State.cmdOp]
@[simp] theorem State.arriveWith_port (cap : Option { n : Nat // 1 ≤ n }) (b : Byte) : (s.arriveWith cap b).port = s.port := by
  unfold State.arriveWith
  by_cases h : rxFits cap s.rxf.length = true <;> simp [h, State.cmdOp]
@[simp] theorem State.arriveWith_draw (cap : Option { n : Nat // 1 ≤ n }) (b : Byte) : (s.arriveWith cap b).draw = s.draw := by
  unfold State.arriveWith
  by_cases h : rxFits cap s.rxf.length = true <;> simp [h, State.cmdOp]
@[simp] theorem State.arriveWith_sched (cap : Option { n : Nat // 1 ≤ n }) (b : Byte) : (s.arriveWith cap b).sched = s.sched := by
  unfold State.arriveWith
  by_cases h : rxFits cap s.rxf.length = true <;> simp [h, State.cmdOp]
@[simp] theorem State.arriveWith_tick (cap : Option { n : Nat // 1 ≤ n }) (b : Byte) : (s.arriveWith cap b).tick = s.tick := by
  unfold State.arriveWith
  by_cases h : rxFits cap s.rxf.length = true <;> simp [h, State.cmdOp]
@[simp] theorem State.arriveWith_cmdOp (cap : Option { n : Nat // 1 ≤ n }) (b : Byte) : (s.arriveWith cap b).cmdOp = s.cmdOp := by
  unfold State.arriveWith
  by_cases h : rxFits cap s.rxf.length = true <;> simp [h, State.cmdOp]

/-! ### `takeAbort` -/

@[simp] theorem State.takeAbort_sync : (s.takeAbort).sync = .outOfSync := by
  unfold State.takeAbort
  by_cases h : s.busy = true <;> simp [h]
@[simp] theorem State.takeAbort_link : (s.takeAbort).link = s.link := by
  unfold State.takeAbort
  by_cases h : s.busy = true <;> simp [h]
@[simp] theorem State.takeAbort_busy : (s.takeAbort).busy = true := by
  unfold State.takeAbort
  by_cases h : s.busy = true <;> simp [h]
@[simp] theorem State.takeAbort_fault : (s.takeAbort).fault = s.fault := by
  unfold State.takeAbort
  by_cases h : s.busy = true <;> simp [h]
@[simp] theorem State.takeAbort_faultOp : (s.takeAbort).faultOp = s.faultOp := by
  unfold State.takeAbort
  by_cases h : s.busy = true <;> simp [h]
@[simp] theorem State.takeAbort_faultStep : (s.takeAbort).faultStep = s.faultStep := by
  unfold State.takeAbort
  by_cases h : s.busy = true <;> simp [h]
@[simp] theorem State.takeAbort_aborted : (s.takeAbort).aborted = true := by
  unfold State.takeAbort
  by_cases h : s.busy = true <;> simp [h]
@[simp] theorem State.takeAbort_result : (s.takeAbort).result = (if s.busy then false else s.result) := by
  unfold State.takeAbort
  by_cases h : s.busy = true <;> simp [h]
@[simp] theorem State.takeAbort_resp : (s.takeAbort).resp = s.resp := by
  unfold State.takeAbort
  by_cases h : s.busy = true <;> simp [h]
@[simp] theorem State.takeAbort_crcAcc : (s.takeAbort).crcAcc = s.crcAcc := by
  unfold State.takeAbort
  by_cases h : s.busy = true <;> simp [h]
@[simp] theorem State.takeAbort_pktBuf : (s.takeAbort).pktBuf = s.pktBuf := by
  unfold State.takeAbort
  by_cases h : s.busy = true <;> simp [h]
@[simp] theorem State.takeAbort_seq : (s.takeAbort).seq = .call .d0 .sp0 := by
  unfold State.takeAbort
  by_cases h : s.busy = true <;> simp [h]
@[simp] theorem State.takeAbort_cmd : (s.takeAbort).cmd = some (Descriptor.blank opTeardown) := by
  unfold State.takeAbort
  by_cases h : s.busy = true <;> simp [h]
@[simp] theorem State.takeAbort_outCrc : (s.takeAbort).outCrc = s.outCrc := by
  unfold State.takeAbort
  by_cases h : s.busy = true <;> simp [h]
@[simp] theorem State.takeAbort_outPkt : (s.takeAbort).outPkt = s.outPkt := by
  unfold State.takeAbort
  by_cases h : s.busy = true <;> simp [h]
@[simp] theorem State.takeAbort_outDpad : (s.takeAbort).outDpad = s.outDpad := by
  unfold State.takeAbort
  by_cases h : s.busy = true <;> simp [h]
@[simp] theorem State.takeAbort_outXY : (s.takeAbort).outXY = s.outXY := by
  unfold State.takeAbort
  by_cases h : s.busy = true <;> simp [h]
@[simp] theorem State.takeAbort_outPayload : (s.takeAbort).outPayload = s.outPayload := by
  unfold State.takeAbort
  by_cases h : s.busy = true <;> simp [h]
@[simp] theorem State.takeAbort_tmpNavail : (s.takeAbort).tmpNavail = s.tmpNavail := by
  unfold State.takeAbort
  by_cases h : s.busy = true <;> simp [h]
@[simp] theorem State.takeAbort_tmpOk1 : (s.takeAbort).tmpOk1 = s.tmpOk1 := by
  unfold State.takeAbort
  by_cases h : s.busy = true <;> simp [h]
@[simp] theorem State.takeAbort_tmpOk : (s.takeAbort).tmpOk = s.tmpOk := by
  unfold State.takeAbort
  by_cases h : s.busy = true <;> simp [h]
@[simp] theorem State.takeAbort_tmpVisit : (s.takeAbort).tmpVisit = s.tmpVisit := by
  unfold State.takeAbort
  by_cases h : s.busy = true <;> simp [h]
@[simp] theorem State.takeAbort_reading : (s.takeAbort).reading = false := by
  unfold State.takeAbort
  by_cases h : s.busy = true <;> simp [h]
@[simp] theorem State.takeAbort_abortReq : (s.takeAbort).abortReq = false := by
  unfold State.takeAbort
  by_cases h : s.busy = true <;> simp [h]
@[simp] theorem State.takeAbort_rxf : (s.takeAbort).rxf = s.rxf := by
  unfold State.takeAbort
  by_cases h : s.busy = true <;> simp [h]
@[simp] theorem State.takeAbort_tx : (s.takeAbort).tx = s.tx := by
  unfold State.takeAbort
  by_cases h : s.busy = true <;> simp [h]
@[simp] theorem State.takeAbort_hist : (s.takeAbort).hist = (if s.busy then s.hist ++ [.done s.cmdOp false] else s.hist) := by
  unfold State.takeAbort
  by_cases h : s.busy = true <;> simp [h]
@[simp] theorem State.takeAbort_port : (s.takeAbort).port = s.port := by
  unfold State.takeAbort
  by_cases h : s.busy = true <;> simp [h]
@[simp] theorem State.takeAbort_draw : (s.takeAbort).draw = s.draw := by
  unfold State.takeAbort
  by_cases h : s.busy = true <;> simp [h]
@[simp] theorem State.takeAbort_sched : (s.takeAbort).sched = s.sched := by
  unfold State.takeAbort
  by_cases h : s.busy = true <;> simp [h]
@[simp] theorem State.takeAbort_tick : (s.takeAbort).tick = s.tick := by
  unfold State.takeAbort
  by_cases h : s.busy = true <;> simp [h]
@[simp] theorem State.takeAbort_cmdOp : s.takeAbort.cmdOp = opTeardown := by
  simp [State.cmdOp, Descriptor.blank]

end Sys2Proof.Machine
end

