-- ==== Sys2Proof/Laws/Ops.lean ====
section
/-! SUPPORT. What each shared operation can do, said once: the cases of a command's frame, of a command's step, of a
primitive, of an instruction and of a move. Later proofs cite these and unfold no operation. -/

namespace Sys2Proof.Machine

variable {s t : State}

/-! ### Primitives -/

theorem State.txWrite_cases (l : List Byte) (k : State → State) (s : State) :
    (s.draw.fails = true ∧ s.txWrite l k =
        { s with tx := s.tx ++ l.take s.draw.sent, hist := s.hist ++ [Event.txFail l] }.transportError) ∨
    (s.draw.fails = false ∧ s.txWrite l k = k { s with tx := s.tx ++ l, hist := s.hist ++ [.tx l] }) := by
  unfold State.txWrite
  cases h : s.draw.fails <;> simp

theorem State.rxRead_cases (o : Label) (c : SubLabel) (n : Nat) (s : State) :
    (s.draw.fails = true ∧ s.rxRead o c n = s.transportError) ∨
    (s.draw.fails = false ∧ n ≤ s.rxf.length ∧ s.rxRead o c n = s.readReturns o c n) ∨
    (s.draw.fails = false ∧ s.rxf.length < n ∧ s.rxRead o c n = { s with reading := true }) := by
  unfold State.rxRead
  cases h : s.draw.fails
  · by_cases hn : n ≤ s.rxf.length
    · simp [hn]
    · simp only [hn, Bool.false_eq_true, if_false, true_and, and_true, false_and, false_or]; omega
  · simp

theorem State.transportError_cases (s : State) :
    (seqInD0 s.seq = true ∧ s.transportError =
        { s.recordFault .transportError (.path s.seq) with
          sync := .outOfSync, reading := false, tmpOk := false, seq := .at .d1 }) ∨
    (seqInD0 s.seq = false ∧ s.transportError =
        { s.recordFault .transportError (.path s.seq) with sync := .outOfSync, reading := false }.endFaulted) := by
  unfold State.transportError
  cases h : seqInD0 s.seq <;> simp

theorem State.stepFs1With_cases (bound : Option WaitBound) (o : Label) (s : State) :
    (s.draw.fails = true ∧ s.stepFs1With bound o = s.transportError) ∨
    (s.draw.fails = false ∧ 0 < s.rxf.length ∧ s.stepFs1With bound o =
        { s.log (.avail s.rxf.length) with tmpNavail := s.rxf.length, seq := .call o .fs3 }) ∨
    (s.draw.fails = false ∧ s.rxf = [] ∧ pollEndsWith bound s.draw.pollEnd s.tmpVisit = true ∧
      s.stepFs1With bound o = { s.log (.avail 0) with resp := byteNoData, seq := .call o .fsx }) ∨
    (s.draw.fails = false ∧ s.rxf = [] ∧ pollEndsWith bound s.draw.pollEnd s.tmpVisit = false ∧
      s.stepFs1With bound o = (s.log (.avail 0)).goto (.call o .fs2)) := by
  unfold State.stepFs1With State.rxAvail
  cases h : s.draw.fails
  · cases hr : s.rxf with
    | nil => cases pollEndsWith bound s.draw.pollEnd s.tmpVisit <;> simp
    | cons b l => simp
  · simp

theorem State.blockedRead_eq_some {o : Label} {c : SubLabel} (h : s.blockedRead = some (o, c)) :
    s.busy = true ∧ s.reading = true ∧ ∃ n, s.seq = .call o c ∧ s.readNeed c = some n ∧ s.rxf.length < n := by
  unfold State.blockedRead at h
  split at h
  · rename_i o' c' hq
    split at h
    · rename_i n hn
      split at h
      · rename_i hlt
        simp only [Option.some.injEq, Prod.mk.injEq] at h
        obtain ⟨rfl, rfl⟩ := h
        simp only [Bool.and_eq_true, decide_eq_true_eq] at hlt
        exact ⟨hlt.1.1, hlt.1.2, n, hq, hn, hlt.2⟩
      · cases h
    · cases h
  · cases h

theorem State.readTimesOutWith_cases (timeout : Option { t : ℝ // 0 < t }) (s : State) :
    s.readTimesOutWith timeout = s ∨
    (s.busy = true ∧ s.reading = true ∧ ∃ o c n, s.seq = .call o c ∧ s.readNeed c = some n ∧ s.rxf.length < n ∧
      s.readTimesOutWith timeout = s.readReturns o c s.rxf.length) := by
  unfold State.readTimesOutWith
  cases hb : s.blockedRead with
  | none => simp
  | some q =>
    obtain ⟨o, c⟩ := q
    cases timeout with
    | none => simp
    | some T =>
      obtain ⟨hbusy, hread, n, hq, hn, hlt⟩ := State.blockedRead_eq_some hb
      exact .inr ⟨hbusy, hread, o, c, n, hq, hn, hlt, rfl⟩

/-- Only a step that reads has an outcome of a read (20 R47). -/
theorem State.readHasOutcome_eq_false (h : ∀ o c, s.seq = .call o c → s.readNeed c = none) :
    s.readHasOutcome = false := by
  unfold State.readHasOutcome
  split
  · rename_i o c hq
    rw [h o c hq]; simp
  · simp

/-! ### Acceptance -/

/-- The port's own descriptor is the one offered for its command, as it stands, and it leaves the port (30 R74). -/
theorem State.offered_of_port {c d : Descriptor} (hp : s.port = some c) : s.offered (decodeCommand c) d = c := by
  unfold State.offered
  rw [hp]
  exact if_pos rfl

theorem State.portAfter_of_port {c : Descriptor} (hp : s.port = some c) : s.portAfter (decodeCommand c) = none := by
  unfold State.portAfter
  rw [hp]
  exact if_pos rfl

theorem State.accept_cases (d : Descriptor) (rest : Option Descriptor) (s : State) :
    (s.abortReq = true ∧ s.accept d rest = (s.presentOnPort d).takeAbort) ∨
    (s.abortReq = false ∧ s.fault ≠ .none ∧ d.op ≠ opTeardown ∧
      s.accept d rest = { s with cmd := some d, busy := true, port := rest }.endFaulted) ∨
    (s.abortReq = false ∧ s.fault = .none ∧ d.op ≠ opTeardown ∧
      ∃ c, c ≠ .none ∧ c ≠ .transportError ∧ s.accept d rest = { s with cmd := some d, busy := true, port := rest }.acceptFault c) ∨
    (s.abortReq = false ∧ (s.fault = .none ∨ d.op = opTeardown) ∧ opReserved d.op = false ∧
      (opUsesTransport d.op = true → d.op ≠ opTeardown → s.link = .opened) ∧ operandsOk d = true ∧
      s.accept d rest = { s with cmd := some d, busy := true, port := rest }.goto (firstStep d.op)) := by
  have htd : d.op = opTeardown → opReserved d.op = false ∧ operandsOk d = true := by
    intro h
    refine ⟨by rw [h]; decide, ?_⟩
    unfold operandsOk operandsOkWith
    rw [h]
    simp [opTeardown]
  unfold State.accept
  cases ha : s.abortReq
  · simp only [Bool.false_eq_true, if_false, false_and, false_or, true_and]
    by_cases hg : s.fault ≠ .none ∧ d.op ≠ opTeardown
    · exact .inl ⟨hg.1, hg.2, by rw [if_pos hg]⟩
    · rw [if_neg hg]
      have hf : s.fault = .none ∨ d.op = opTeardown := by
        by_cases h1 : s.fault = .none
        · exact .inl h1
        · exact .inr (by_contra fun h2 => hg ⟨h1, h2⟩)
      cases hr : opReserved d.op
      · simp only [Bool.false_eq_true, if_false]
        by_cases hl : opUsesTransport d.op = true ∧ d.op ≠ opTeardown ∧ s.link = .closed
        · rw [if_pos hl]
          exact .inr (.inl ⟨hf.resolve_right hl.2.1, hl.2.1, .linkClosed, by decide, by decide, rfl⟩)
        · rw [if_neg hl]
          cases ho : operandsOk d
          · have hnt : d.op ≠ opTeardown := fun h => by rw [(htd h).2] at ho; cases ho
            exact .inr (.inl ⟨hf.resolve_right hnt, hnt, .badOperand, by decide, by decide, by simp⟩)
          · refine .inr (.inr ⟨hf, trivial, ?_, rfl, by simp⟩)
            intro h1 h2
            cases hlk : s.link
            · exact absurd ⟨h1, h2, hlk⟩ hl
            · rfl
      · have hnt : d.op ≠ opTeardown := fun h => by rw [(htd h).1] at hr; cases hr
        exact .inr (.inl ⟨hf.resolve_right hnt, hnt, .illegalCommand, by decide, by decide, by simp⟩)
  · simp

/-! ### A command's step -/

/-- What one step of an executing command can do: one case for each labelled step of the commands' rules. -/
inductive CommandStep : State → State → Prop where
  | crc8 (s : State) (data : List Byte) (hc : s.cmd.map decodeCommand = some (.crc8 data)) (h : s.seq = .at .k0) :
      CommandStep s ({ s with crcAcc := crc8 data, outCrc := crc8 data }.complete true)
  | buildPacket (s : State) (data : List Byte) (p : Payload)
      (hc : s.cmd.map decodeCommand = some (.buildPacket data)) (hp : payloadOf data = some p) (h : s.seq = .at .k0) :
      CommandStep s ({ s with crcAcc := (buildPacket p).crc, pktBuf := buildPacket p, outPkt := buildPacket p }.complete true)
  | parseAck (s : State) (b : Byte) (hc : s.cmd.map decodeCommand = some (.parseAck [b])) (h : s.seq = .at .k0) :
      CommandStep s (s.complete (parseAck b))
  | encodeDpad (s : State) (f : Byte) (hc : s.cmd.map decodeCommand = some (.encodeDpad f)) (h : s.seq = .at .e0) :
      CommandStep s ({ s with outDpad := encodeDpad f }.complete true)
  | polar (s : State) (a : Int) (i : Byte) (hc : s.cmd.map decodeCommand = some (.polarToCartesian a i))
      (h : s.seq = .at .e0) : CommandStep s ({ s with outXY := polarDegrees (a % 360) i }.complete true)
  | decode (s : State) (v : BitVec 64) (hc : s.cmd.map decodeCommand = some (.decodeControllerState v))
      (h : s.seq = .at .e0) : CommandStep s ({ s with outPayload := decodeState v }.complete true)
  | sp0 (s : State) (o : Label) (p : Payload) (h : s.seq = .call o .sp0) (hp : s.sendPayload = some p) :
      CommandStep s (s.stepSp0 o p)
  | read (s : State) (o : Label) (c : SubLabel) (n : Nat) (h : s.seq = .call o c) (hn : s.readNeed c = some n) :
      CommandStep s (s.rxRead o c n)
  | sp2Done (s : State) (o : Label) (h : s.seq = .call o .sp2) (ho : o = .s0 ∨ o = .c0 ∨ o = .y2) :
      CommandStep s (s.stepSp2 State.complete)
  | sp2Y0 (s : State) (h : s.seq = .call .y0 .sp2) : CommandStep s (s.stepSp2 afterY0)
  | sp2T0 (s : State) (h : s.seq = .call .t0 .sp2) :
      CommandStep s (s.stepSp2 (fun ok t => { t with tmpOk1 := ok, seq := .at .t1 }))
  | sp2T2 (s : State) (h : s.seq = .call .t2 .sp2) :
      CommandStep s (s.stepSp2 (fun ok t => { t with tmpOk := ok, seq := .at .t3 }))
  | sp2D0 (s : State) (h : s.seq = .call .d0 .sp2) :
      CommandStep s (s.stepSp2 (fun ok t => { t with tmpOk := ok, seq := .at .d1 }))
  | fs0 (s : State) (o : Label) (h : s.seq = .call o .fs0) (ho : callsSync o = true) : CommandStep s (s.stepFs0 o)
  | fs1 (s : State) (o : Label) (h : s.seq = .call o .fs1) (ho : callsSync o = true) :
      CommandStep s (s.stepFs1With Config.syncWaitBound o)
  | fs2 (s : State) (o : Label) (h : s.seq = .call o .fs2) (ho : callsSync o = true) : CommandStep s (s.stepFs2 o)
  | fs4 (s : State) (o : Label) (h : s.seq = .call o .fs4) (ho : callsSync o = true) : CommandStep s (s.stepFs4 o)
  | fs6 (s : State) (o : Label) (h : s.seq = .call o .fs6) (ho : callsSync o = true) : CommandStep s (s.stepFs6 o)
  | fs8F0 (s : State) (h : s.seq = .call .f0 .fs8) : CommandStep s ({ s with sync := .synced }.complete true)
  | fs8Y1 (s : State) (h : s.seq = .call .y1 .fs8) : CommandStep s (afterY1 true { s with sync := .synced })
  | fsxF0 (s : State) (h : s.seq = .call .f0 .fsx) : CommandStep s ({ s with sync := .outOfSync }.complete false)
  | fsxY1 (s : State) (h : s.seq = .call .y1 .fsx) : CommandStep s (afterY1 false { s with sync := .outOfSync })
  | t1 (s : State) (h : s.seq = .at .t1) : CommandStep s (s.waitThen tapGap (.call .t2 .sp0))
  | t3 (s : State) (hold : Seconds) (h : s.seq = .at .t3) : CommandStep s (s.waitThen hold (.at .t4))
  | t4 (s : State) (h : s.seq = .at .t4) : CommandStep s (s.complete (s.tmpOk1 && s.tmpOk))
  | d0Closed (s : State) (h : s.seq = .call .d0 .sp0) (hl : s.link = .closed) : CommandStep s (s.complete false)
  | d1 (s : State) (h : s.seq = .at .d1) : CommandStep s (s.closeLink.complete s.tmpOk)

theorem sendSeq_steps {o : Label} {p : Payload} {ret : Bool → State → State} {c : SubLabel}
    (hs : s.seq = .call o c) (hp : c = .sp0 → s.sendPayload = some p)
    (hret : c = .sp2 → CommandStep s (s.stepSp2 ret)) (h : sendSeq o p ret c s = .next t) : CommandStep s t := by
  unfold sendSeq at h
  split at h <;> cases h
  · exact .sp0 s o p hs (hp rfl)
  · exact .read s o .sp1 1 hs rfl
  · exact hret rfl

theorem syncSeq_steps {o : Label} {ret : Bool → State → State} {c : SubLabel} (hs : s.seq = .call o c)
    (ho : callsSync o = true) (h8 : c = .fs8 → CommandStep s (ret true { s with sync := .synced }))
    (hx : c = .fsx → CommandStep s (ret false { s with sync := .outOfSync })) (h : syncSeq o ret c s = .next t) :
    CommandStep s t := by
  unfold syncSeq at h
  split at h <;> cases h
  · exact .fs0 s o hs ho
  · exact .fs1 s o hs ho
  · exact .fs2 s o hs ho
  · exact .read s o .fs3 s.tmpNavail hs rfl
  · exact .fs4 s o hs ho
  · exact .read s o .fs5 1 hs rfl
  · exact .fs6 s o hs ho
  · exact .read s o .fs7 1 hs rfl
  · exact h8 rfl
  · exact hx rfl

theorem stepCrc8_steps {data : List Byte}
    (hc : s.cmd.map decodeCommand = some (.crc8 data)) (h : stepCrc8 data s = .next t) : CommandStep s t := by
  unfold stepCrc8 at h; split at h <;> cases h
  exact .crc8 s data hc ‹_›

theorem stepBuildPacket_steps {data : List Byte}
    (hc : s.cmd.map decodeCommand = some (.buildPacket data)) (h : stepBuildPacket data s = .next t) : CommandStep s t := by
  unfold stepBuildPacket at h; split at h <;> cases h
  exact .buildPacket s data _ hc ‹_› ‹_›

theorem stepParseAck_steps {data : List Byte}
    (hc : s.cmd.map decodeCommand = some (.parseAck data)) (h : stepParseAck data s = .next t) : CommandStep s t := by
  unfold stepParseAck at h; split at h <;> cases h
  exact .parseAck s _ hc ‹_›

theorem stepEncodeDpad_steps {f : Byte}
    (hc : s.cmd.map decodeCommand = some (.encodeDpad f)) (h : stepEncodeDpad f s = .next t) : CommandStep s t := by
  unfold stepEncodeDpad at h; split at h <;> cases h
  exact .encodeDpad s f hc ‹_›

theorem stepPolarToCartesian_steps {a : Int} {i : Byte}
    (hc : s.cmd.map decodeCommand = some (.polarToCartesian a i)) (h : stepPolarToCartesian a i s = .next t) :
    CommandStep s t := by
  unfold stepPolarToCartesian at h; split at h <;> cases h
  exact .polar s a i hc ‹_›

theorem stepDecodeControllerState_steps {v : BitVec 64}
    (hc : s.cmd.map decodeCommand = some (.decodeControllerState v)) (h : stepDecodeControllerState v s = .next t) :
    CommandStep s t := by
  unfold stepDecodeControllerState at h; split at h <;> cases h
  exact .decode s v hc ‹_›

theorem decodeCommand_data {d : Descriptor} {data : List Byte} (h : decodeCommand d = .sendPacket data) :
    d.data = data := by
  unfold decodeCommand at h
  split at h <;> cases h
  rfl

theorem decodeCommand_state {d : Descriptor} {v : BitVec 64} (h : decodeCommand d = .sendCommand v) : d.state = v := by
  unfold decodeCommand at h
  split at h <;> cases h
  rfl

theorem decodeCommand_tapState {d : Descriptor} {v : BitVec 64} {hold : Seconds}
    (h : decodeCommand d = .tapCommand v hold) : d.state = v := by
  unfold decodeCommand at h
  split at h <;> cases h
  rfl

theorem stepSendPacket_steps {data : List Byte} (hc : s.cmd.map decodeCommand = some (.sendPacket data)) (h : stepSendPacket data s = .next t) : CommandStep s t := by
  unfold stepSendPacket at h; split at h
  · rename_i c p hq hp
    obtain ⟨d, hd, hdec⟩ := Option.map_eq_some_iff.mp hc
    refine sendSeq_steps hq (fun h0 => ?_) (fun hc => .sp2Done s .s0 (by rw [hq, hc]) (.inl rfl)) h
    simp only [State.sendPayload, hq, hd, decodeCommand_data hdec, hp]
  · cases h

theorem stepForceSync_steps (h : stepForceSync s = .next t) : CommandStep s t := by
  unfold stepForceSync at h; split at h
  · rename_i c hq
    exact syncSeq_steps hq rfl (fun hc => .fs8F0 s (by rw [hq, hc])) (fun hc => .fsxF0 s (by rw [hq, hc])) h
  · cases h

theorem stepSync_steps (h : stepSync s = .next t) : CommandStep s t := by
  unfold stepSync at h; split at h
  · rename_i c hq
    exact sendSeq_steps hq (fun _ => by simp only [State.sendPayload, hq]) (fun hc => .sp2Y0 s (by rw [hq, hc])) h
  · rename_i c hq
    exact syncSeq_steps hq rfl (fun hc => .fs8Y1 s (by rw [hq, hc])) (fun hc => .fsxY1 s (by rw [hq, hc])) h
  · rename_i c hq
    exact sendSeq_steps hq (fun _ => by simp only [State.sendPayload, hq]) (fun hc => .sp2Done s .y2 (by rw [hq, hc]) (.inr (.inr rfl))) h
  · cases h

theorem stepSendCommand_steps {v : BitVec 64} (hc : s.cmd.map decodeCommand = some (.sendCommand v))
    (h : stepSendCommand v s = .next t) : CommandStep s t := by
  unfold stepSendCommand at h; split at h
  · rename_i c hq
    obtain ⟨d, hd, hdec⟩ := Option.map_eq_some_iff.mp hc
    exact sendSeq_steps hq (fun _ => by simp only [State.sendPayload, hq, hd, decodeCommand_state hdec]) (fun hc => .sp2Done s .c0 (by rw [hq, hc]) (.inr (.inl rfl))) h
  · cases h

theorem stepTapCommand_steps {v : BitVec 64} {hold : Seconds} (hc : s.cmd.map decodeCommand = some (.tapCommand v hold))
    (h : stepTapCommand v hold s = .next t) : CommandStep s t := by
  unfold stepTapCommand at h; split at h
  · rename_i c hq
    obtain ⟨d, hd, hdec⟩ := Option.map_eq_some_iff.mp hc
    exact sendSeq_steps hq (fun _ => by simp only [State.sendPayload, hq, hd, decodeCommand_tapState hdec])
      (fun hc => .sp2T0 s (by rw [hq, hc])) h
  · cases h; exact .t1 s ‹_›
  · rename_i c hq
    exact sendSeq_steps hq (fun _ => by simp only [State.sendPayload, hq]) (fun hc => .sp2T2 s (by rw [hq, hc])) h
  · cases h; exact .t3 s hold ‹_›
  · cases h; exact .t4 s ‹_›
  · cases h

theorem stepTeardown_steps (h : stepTeardown s = .next t) : CommandStep s t := by
  unfold stepTeardown at h; split at h
  · rename_i c hq
    split at h
    · rename_i hc
      cases h; exact .d0Closed s (by rw [hq, hc.1]) hc.2
    · rename_i hc
      exact sendSeq_steps hq (fun h0 => by
        simp only [State.sendPayload, hq, if_neg (fun hl => hc ⟨h0, hl⟩ : ¬s.link = .closed)]) (fun h2 => .sp2D0 s (by rw [hq, h2])) h
  · cases h; exact .d1 s ‹_›
  · cases h

/-! ### An instruction -/

/-- What a command's instruction can do: be accepted, be held on the port, let an ABORT be taken, or do a step. -/
inductive PortStep : State → State → Prop where
  | hold (s : State) (d : Descriptor) : PortStep s (s.presentOnPort d)
  | accept (s : State) (i : Instr) (d : Descriptor) (hb : s.busy = false) :
      PortStep s (s.accept (s.offered i d) (s.portAfter i))
  | abort (s : State) (hb : s.busy = true) (ha : s.abortDue = true) (hr : s.readHasOutcome = false) :
      PortStep s s.takeAbort
  | command (s t : State) (hb : s.busy = true) (ha : s.abortDue = true → s.readHasOutcome = true)
      (h : CommandStep s t) : PortStep s t

/-- What an instruction can do: what a command's does, nothing, an arrival, or the timeout of a blocked read. -/
inductive InstrStep : State → State → Prop where
  | port (s t : State) (h : PortStep s t) : InstrStep s t
  | same (s : State) : InstrStep s s
  | arrive (s : State) (b : Byte) : InstrStep s (s.arrive b)
  | timesOut (s : State) : InstrStep s s.readTimesOut

theorem runCommand_cases {i : Instr} {d : Descriptor} {body : State → Out} (h : runCommand i d body s = .next t) :
    (s.busy = false ∧ t = s.accept (s.offered i d) (s.portAfter i)) ∨
    (s.busy = true ∧ s.cmd.map decodeCommand = some i ∧ s.abortDue = true ∧ s.readHasOutcome = false ∧
      t = s.takeAbort) ∨
    (s.busy = true ∧ s.cmd.map decodeCommand = some i ∧ (s.abortDue = true → s.readHasOutcome = true) ∧
      body s = .next t) ∨
    (s.busy = true ∧ s.cmd.map decodeCommand ≠ some i ∧ t = s.presentOnPort d) := by
  unfold runCommand at h
  cases hb : s.busy
  · rw [if_neg (by simp [hb])] at h
    cases h; simp
  · rw [if_pos hb] at h
    by_cases hc : s.cmd.map decodeCommand = some i
    · rw [if_pos hc] at h
      cases ha : s.abortDue <;> cases hr : s.readHasOutcome <;>
        simp only [ha, hr, Bool.false_and, Bool.true_and, Bool.not_true, Bool.not_false, Bool.false_eq_true,
          if_false, if_true] at h
      · exact .inr (.inr (.inl ⟨rfl, hc, by simp, h⟩))
      · exact .inr (.inr (.inl ⟨rfl, hc, by simp, h⟩))
      · cases h; exact .inr (.inl ⟨rfl, hc, rfl, rfl, rfl⟩)
      · exact .inr (.inr (.inl ⟨rfl, hc, by simp, h⟩))
    · rw [if_neg hc] at h
      cases h; simp [hc]

theorem runCommand_steps {i : Instr} {d : Descriptor} {body : State → Out}
    (hbody : s.cmd.map decodeCommand = some i → body s = .next t → CommandStep s t)
    (h : runCommand i d body s = .next t) : PortStep s t := by
  obtain ⟨hb, rfl⟩ | ⟨hb, -, ha, hr, rfl⟩ | ⟨hb, hc, ha, h⟩ | ⟨-, -, rfl⟩ := runCommand_cases h
  · exact .accept s i d hb
  · exact .abort s hb ha hr
  · exact .command s t hb ha (hbody hc h)
  · exact .hold s d

theorem decodeCommand_isCommand (d : Descriptor) : encodeCommand (decodeCommand d) ≠ none := by
  unfold decodeCommand
  split <;> exact Option.some_ne_none _

theorem decodeCommand_core (d : Descriptor) : (decodeCommand d).core = decodeCommand d := by
  unfold decodeCommand
  split <;> rfl

/-- A command on an idle Core is its acceptance (30 R74). -/
theorem exec_idle {i : Instr} {d : Descriptor} (hd : encodeCommand i = some d) (hb : s.busy = false) :
    exec i s = .next (s.accept (s.offered i.core d) (s.portAfter i.core)) := by
  have key : ∀ j body, runCommand j d body s = .next (s.accept (s.offered j d) (s.portAfter j)) := by
    intro j body
    unfold runCommand
    rw [if_neg (by rw [hb]; decide)]
  cases i <;> cases hd <;> exact key _ _

/-- The descriptor on an idle Core's port, accepted as it stands, leaves the port (30 R74). -/
theorem exec_accepts_port {c : Descriptor} (hb : s.busy = false) (hp : s.port = some c) :
    exec (decodeCommand c) s = .next (s.accept c none) := by
  obtain ⟨d, hd⟩ := Option.ne_none_iff_exists'.mp (decodeCommand_isCommand c)
  rw [exec_idle hd hb, decodeCommand_core, State.offered_of_port hp, State.portAfter_of_port hp]

theorem transmitAt_steps {here : Label → SubLabel → Bool} {send : Label → State → State}
    (hread : ∀ o c, s.seq = .call o c → here o c = true → s.readNeed c = none)
    (hsend : ∀ o c, s.seq = .call o c → here o c = true → CommandStep s (send o s))
    (h : transmitAt here send s = .next t) : InstrStep s t := by
  unfold transmitAt at h
  split at h
  · rename_i o c hq
    split at h
    · rename_i hh
      simp only [Bool.and_eq_true] at hh
      split at h
      · cases h
        refine .port s _ (.abort s hh.1 ‹_› (State.readHasOutcome_eq_false fun o' c' hq' => ?_))
        rw [hq] at hq'; cases hq'
        exact hread o c hq hh.2
      · rename_i ha
        cases h
        exact .port s _ (.command s _ hh.1 (fun h' => absurd h' ha) (hsend o c hq hh.2))
    · cases h; exact .same s
  · cases h; exact .same s

/-- A command's instruction does only what a command can do: no byte arrives and no read times out in it. -/
theorem exec_command_steps {i : Instr} (hi : encodeCommand i ≠ none) (h : exec i s = .next t) : PortStep s t := by
  cases i with
  | crc8 data => exact runCommand_steps (fun hc h => stepCrc8_steps hc h) h
  | buildPacket data => exact runCommand_steps (fun hc h => stepBuildPacket_steps hc h) h
  | parseAck data => exact runCommand_steps (fun hc h => stepParseAck_steps hc h) h
  | sendPacket data => exact runCommand_steps (fun hc h => stepSendPacket_steps hc h) h
  | forceSync => exact runCommand_steps (fun _ h => stepForceSync_steps h) h
  | sync => exact runCommand_steps (fun _ h => stepSync_steps h) h
  | sendCommand v => exact runCommand_steps (fun hc h => stepSendCommand_steps hc h) h
  | tapCommand v hold => exact runCommand_steps (fun hc h => stepTapCommand_steps hc h) h
  | teardown => exact runCommand_steps (fun _ h => stepTeardown_steps h) h
  | encodeDpad f => exact runCommand_steps (fun hc h => stepEncodeDpad_steps hc h) h
  | polarToCartesian a i => exact runCommand_steps (fun hc h => stepPolarToCartesian_steps hc h) h
  | decodeControllerState v => exact runCommand_steps (fun hc h => stepDecodeControllerState_steps hc h) h
  | reserved0 => exact runCommand_steps (fun _ h => by cases h) h
  | reservedD => exact runCommand_steps (fun _ h => by cases h) h
  | reservedE => exact runCommand_steps (fun _ h => by cases h) h
  | reservedF => exact runCommand_steps (fun _ h => by cases h) h
  | release => exact runCommand_steps (fun hc h => stepSendCommand_steps hc h) h
  | _ => exact absurd rfl hi

theorem exec_steps {i : Instr} (h : exec i s = .next t) : InstrStep s t := by
  by_cases hi : encodeCommand i ≠ none
  · exact .port s t (exec_command_steps hi h)
  · cases i with
    | crc8 data => exact absurd (Option.some_ne_none _) hi
    | buildPacket data => exact absurd (Option.some_ne_none _) hi
    | parseAck data => exact absurd (Option.some_ne_none _) hi
    | sendPacket data => exact absurd (Option.some_ne_none _) hi
    | forceSync => exact absurd (Option.some_ne_none _) hi
    | sync => exact absurd (Option.some_ne_none _) hi
    | sendCommand v => exact absurd (Option.some_ne_none _) hi
    | tapCommand v hold => exact absurd (Option.some_ne_none _) hi
    | teardown => exact absurd (Option.some_ne_none _) hi
    | encodeDpad f => exact absurd (Option.some_ne_none _) hi
    | polarToCartesian a i => exact absurd (Option.some_ne_none _) hi
    | decodeControllerState v => exact absurd (Option.some_ne_none _) hi
    | reserved0 => exact absurd (Option.some_ne_none _) hi
    | reservedD => exact absurd (Option.some_ne_none _) hi
    | reservedE => exact absurd (Option.some_ne_none _) hi
    | reservedF => exact absurd (Option.some_ne_none _) hi
    | release => exact absurd (Option.some_ne_none _) hi
    | syncStart =>
      refine transmitAt_steps (fun o c hq hh => ?_) (fun o c hq hh => ?_) h
        <;> simp only [Bool.and_eq_true, beq_iff_eq] at hh <;> obtain ⟨h1, h2⟩ := hh
      · subst h2; rfl
      · subst h2; exact .fs0 s o hq h1
    | sync1 =>
      refine transmitAt_steps (fun o c hq hh => ?_) (fun o c hq hh => ?_) h
        <;> simp only [Bool.and_eq_true, beq_iff_eq] at hh <;> obtain ⟨h1, h2⟩ := hh
      · subst h2; rfl
      · subst h2; exact .fs4 s o hq h1
    | sync2 =>
      refine transmitAt_steps (fun o c hq hh => ?_) (fun o c hq hh => ?_) h
        <;> simp only [Bool.and_eq_true, beq_iff_eq] at hh <;> obtain ⟨h1, h2⟩ := hh
      · subst h2; rfl
      · subst h2; exact .fs6 s o hq h1
    | wirePacket p =>
      refine transmitAt_steps (fun o c hq hh => ?_) (fun o c hq hh => ?_) h
        <;> simp only [Bool.and_eq_true, beq_iff_eq] at hh <;> obtain ⟨h1, h2⟩ := hh
      · subst h1; rfl
      · subst h1; exact .sp0 s o p hq h2
    | usbAck => cases h; exact .arrive s _
    | updateAck => cases h; exact .arrive s _
    | updateNack => cases h; exact .arrive s _
    | syncStartEcho => cases h; exact .arrive s _
    | sync1Response => cases h; exact .arrive s _
    | syncOkResponse => cases h; exact .arrive s _
    | noData => cases h; exact .timesOut s

/-! ### The fixed waits (00_scope R6) -/

theorem pollInterval_eq : pollInterval = .exact (1 / 10) := by decide +kernel

theorem tapGap_eq : tapGap = .exact (1 / 20) := by decide +kernel

/-! ### A move -/

/-- What a move can do besides running an instruction. -/
inductive MoveStep : Move → State → State → Prop where
  | core (d : Draw) (s t : State) (c : Descriptor) (hb : s.busy = true) (hc : s.cmd = some c)
      (h : PortStep { s with draw := d } t) : MoveStep (.core d) s t
  | coreAccepts (d : Draw) (s : State) (c : Descriptor) (hb : s.busy = false) (hp : s.port = some c) :
      MoveStep (.core d) s ({ s with draw := d }.accept c none)
  | coreIdleAbort (d : Draw) (s : State) (hb : s.busy = false) (ha : s.abortReq = true) :
      MoveStep (.core d) s ({ s with draw := d }.takeAbort)
  | coreWaits (d : Draw) (s : State) : MoveStep (.core d) s { s with draw := d }
  | arrive (b : Byte) (s : State) : MoveStep (.arrive b) s (s.arrive b)
  | timeout (s : State) : MoveStep .timeout s s.readTimesOut
  | present (d : Descriptor) (s : State) : MoveStep (.present d) s (s.presentOnPort d)
  | abort (s : State) : MoveStep .abort s { s with abortReq := true }
  | reset (s : State) : MoveStep .reset s s.resetCore
  | hostRead (s : State) : MoveStep .hostRead s s
  | hostWrite (v : BitVec 16) (s : State) : MoveStep (.hostWriteStatReg v) s s

theorem exec_arrivalInstr {b : Byte} {i : Instr} (h : arrivalInstr b = some i) (s : State) :
    exec i s = .next (s.arrive b) := by
  unfold arrivalInstr decodeRx at h
  by_cases h0 : b = byteNoData
  · rw [if_pos h0] at h; cases h
  · rw [if_neg h0] at h
    have h0' : b ≠ 0x00#8 := h0
    repeat' split at h
    all_goals first
      | exact absurd ‹b = 0x00#8› h0'
      | (cases h; subst b; rfl)
      | cases h

/-- What a Core's move fetches (30 R74): a busy Core the executing command, an idle one the command the port holds. -/
theorem fetchInstr_core_busy {d : Draw} {c : Descriptor} (hb : s.busy = true) (hc : s.cmd = some c) :
    fetchInstr (.core d) s = some (decodeCommand c, { s with draw := d }) := by
  unfold fetchInstr
  dsimp only
  rw [if_pos hb, hc]
  rfl

theorem fetchInstr_core_idle {d : Draw} {c : Descriptor} (hb : s.busy = false) (hp : s.port = some c) :
    fetchInstr (.core d) s = some (decodeCommand c, { s with draw := d }) := by
  unfold fetchInstr
  dsimp only
  rw [if_neg (by rw [hb]; decide), hp]
  rfl

theorem fetchInstr_core_none {d : Draw} (h : if s.busy then s.cmd = none else s.port = none) :
    fetchInstr (.core d) s = none := by
  unfold fetchInstr
  dsimp only
  split at h
  · rename_i hb; rw [if_pos hb, h]; rfl
  · rename_i hb; rw [if_neg hb, h]; rfl

theorem runMove_steps {m : Move} (h : runMove m s = .next t) : MoveStep m s t := by
  unfold runMove at h
  cases m with
  | core d =>
    by_cases hb : s.busy = true
    · cases hc : s.cmd with
      | none =>
        rw [fetchInstr_core_none (by rw [if_pos hb]; exact hc)] at h
        dsimp only [otherMove] at h
        rw [if_pos hb] at h
        cases h
      | some c =>
        rw [fetchInstr_core_busy hb hc] at h
        exact .core d s t c hb hc (exec_command_steps (decodeCommand_isCommand c) h)
    · have hb' : s.busy = false := by simpa using hb
      cases hp : s.port with
      | none =>
        rw [fetchInstr_core_none (by rw [if_neg hb]; exact hp)] at h
        dsimp only [otherMove] at h
        rw [if_neg hb] at h
        split at h
        · cases h; exact .coreIdleAbort d s hb' ‹_›
        · cases h; exact .coreWaits d s
      | some c =>
        rw [fetchInstr_core_idle hb' hp] at h
        dsimp only at h
        rw [exec_accepts_port (s := { s with draw := d }) hb' hp] at h
        cases h; exact .coreAccepts d s c hb' hp
  | arrive b =>
    cases ha : arrivalInstr b with
    | none =>
      simp only [fetchInstr, ha, Option.map_none, otherMove] at h
      cases h; exact .arrive b s
    | some i =>
      simp only [fetchInstr, ha, Option.map_some] at h
      rw [exec_arrivalInstr ha] at h
      cases h; exact .arrive b s
  | timeout => cases h; exact .timeout s
  | present d => cases h; exact .present d s
  | abort => cases h; exact .abort s
  | reset => cases h; exact .reset s
  | hostRead => cases h; exact .hostRead s
  | hostWriteStatReg v => cases h; exact .hostWrite v s

theorem step_steps (h : step s = .next t) : MoveStep s.nextMove.1 s.nextMove.2 t := runMove_steps h

/-- Drawing the next move touches only the schedule and the count of free moves. -/
theorem State.nextMove_cases (s : State) :
    (∃ m rest, s.sched = m :: rest ∧ s.nextMove = (m, { s with sched := rest })) ∨
    (s.sched = [] ∧ s.nextMove = (Config.freeMove s.tick, { s with tick := s.tick + 1 })) := by
  unfold State.nextMove
  cases h : s.sched with
  | nil => exact .inr ⟨rfl, rfl⟩
  | cons m rest => exact .inl ⟨m, rest, rfl, rfl⟩

end Sys2Proof.Machine
end

