-- ==== Sys2Proof/Laws/Effects.lean ====
section
/-! SUPPORT. What a step can do, said once over plain record updates: the outcome of fault entry, of acceptance, of a
command's step and of a move. A proof about every step of the machine takes its cases from `step_effects` and
`command_effects` and unfolds no operation. -/

namespace Sys2Proof.Machine

variable {s t : State}

/-! ### Single operations -/

theorem State.presentOnPort_eq (d : Descriptor) (s : State) :
    s.presentOnPort d = { s with port := some (s.port.getD d) } := by
  unfold State.presentOnPort
  cases h : s.port with
  | none => rfl
  | some e => cases s; cases h; rfl

/-- Fault entry by a TransportError keeps a first fault, leaves STATUS.SYNC OutOfSync and appends FAULT(1), then perhaps
DONE (60 R134). -/
theorem State.transportError_effect (s : State) :
    ∃ f op st q b ok r ev, s.transportError = { s with
        fault := f, faultOp := op, faultStep := st, sync := .outOfSync, seq := q, busy := b, reading := false
        tmpOk := ok, result := r, hist := s.hist ++ (Event.fault .transportError :: ev) } ∧
      (s.fault ≠ .none → f = s.fault ∧ op = s.faultOp ∧ st = s.faultStep) ∧ f ≠ .none ∧
      (ev = [] ∨ ev = [.done s.cmdOp false]) := by
  rcases State.transportError_cases s with ⟨_, h⟩ | ⟨_, h⟩ <;> rw [h] <;> by_cases hf : s.fault = .none
  · exact ⟨.transportError, s.cmdOp, .path s.seq, .at .d1, s.busy, false, s.result, [],
      by simp [State.recordFault, State.log, hf, State.cmdOp], by simp [hf], by simp, .inl rfl⟩
  · exact ⟨s.fault, s.faultOp, s.faultStep, .at .d1, s.busy, false, s.result, [],
      by simp [State.recordFault, State.log, hf], by simp, hf, .inl rfl⟩
  · exact ⟨.transportError, s.cmdOp, .path s.seq, .idle, false, s.tmpOk, false, [.done s.cmdOp false],
      by simp [State.recordFault, State.log, hf, State.endFaulted, State.cmdOp], by simp [hf], by simp, .inr rfl⟩
  · exact ⟨s.fault, s.faultOp, s.faultStep, .idle, false, s.tmpOk, false, [.done s.cmdOp false],
      by simp [State.recordFault, State.log, hf, State.endFaulted, State.cmdOp], by simp, hf, .inr rfl⟩

/-- Acceptance (30 R74): an ABORT is taken, the fault gate ends the command, a check faults it, or it begins. -/
theorem State.accept_effect (d : Descriptor) (rest : Option Descriptor) (s : State) :
    (s.abortReq = true ∧ s.accept d rest = ({ s with port := some (s.port.getD d) } : State).takeAbort) ∨
    (s.abortReq = false ∧ s.fault ≠ .none ∧ s.accept d rest = { s with
      cmd := some d, port := rest, busy := false, result := false, seq := .idle, hist := s.hist ++ [.done d.op false] }) ∨
    (s.abortReq = false ∧ s.fault = .none ∧ ∃ c, c ≠ .none ∧ c ≠ .transportError ∧ s.accept d rest = { s with
      cmd := some d, port := rest, busy := false, fault := c, faultOp := d.op, faultStep := .accept, result := false
      seq := .idle, hist := s.hist ++ [.fault c, .done d.op false] }) ∨
    (s.abortReq = false ∧ (s.fault = .none ∨ d.op = opTeardown) ∧ opReserved d.op = false ∧ operandsOk d = true ∧
      (opUsesTransport d.op = true → d.op ≠ opTeardown → s.link = .opened) ∧
      s.accept d rest = { s with cmd := some d, port := rest, busy := true, seq := firstStep d.op }) := by
  rcases State.accept_cases d rest s with ⟨ha, h⟩ | ⟨ha, hf, _, h⟩ | ⟨ha, hf, _, c, h1, h2, h⟩ | ⟨ha, hf, h1, h2, h3, h⟩
  · exact .inl ⟨ha, by rw [h, State.presentOnPort_eq]⟩
  · exact .inr (.inl ⟨ha, hf, by rw [h]; simp [State.endFaulted, State.cmdOp]⟩)
  · exact .inr (.inr (.inl ⟨ha, hf, c, h1, h2, by
      rw [h]; simp [State.acceptFault, State.recordFault, State.endFaulted, State.cmdOp, State.log, hf]⟩))
  · exact .inr (.inr (.inr ⟨ha, hf, h1, h3, h2, by rw [h]; simp [State.goto]⟩))

/-! ### A command's step -/

/-- The bytes a write step asks the transport to send, and what it may (42 R107, R111). -/
inductive WriteStep (s : State) : Label → SubLabel → List Byte → Prop where
  | packet (o : Label) (p : Payload) (h : s.sendPayload = some p) :
      WriteStep s o .sp0 (packetBytes (buildPacket p))
  | flush (o : Label) (h : callsSync o = true) : WriteStep s o .fs0 flushBytes
  | sync1 (o : Label) (h : callsSync o = true) : WriteStep s o .fs4 [byteSync1]
  | sync2 (o : Label) (h : callsSync o = true) : WriteStep s o .fs6 [byteSync2]

/-- The value a verdict step gives STATUS.SYNC: SP2 by RESP, FS8 Synced, FSX OutOfSync (42 R106). -/
inductive VerdictStep (s : State) : SubLabel → SyncStatus → Prop where
  | sp2 : VerdictStep s .sp2 (if s.resp = byteUsbAck then .synced else .outOfSync)
  | fs8 : VerdictStep s .fs8 .synced
  | fsx : VerdictStep s .fsx .outOfSync

/-- What a step of an executing command does to the state, by the kind of the step. -/
inductive CommandEffect (s : State) : State → Prop where
  /-- A write fails. -/
  | writeFails (o : Label) (c : SubLabel) (l : List Byte) (pkt : Packet) (acc : Byte) (sy : SyncStatus) (visit : Nat)
      (hf : s.draw.fails = true) (h : s.seq = .call o c) (hw : WriteStep s o c l) :
      CommandEffect s (({ s with pktBuf := pkt, crcAcc := acc, sync := sy, tmpVisit := visit
                                 tx := s.tx ++ l.take s.draw.sent, hist := s.hist ++ [.txFail l] } : State).transportError)
  /-- A read or the poll's count fails. -/
  | readFails (o : Label) (c : SubLabel) (hf : s.draw.fails = true) (h : s.seq = .call o c)
      (hc : c = .fs1 ∨ s.readNeed c ≠ none) : CommandEffect s s.transportError
  /-- A write completes. -/
  | writes (o : Label) (c c' : SubLabel) (l : List Byte) (pkt : Packet) (acc : Byte) (sy : SyncStatus) (visit : Nat)
      (hf : s.draw.fails = false) (h : s.seq = .call o c) (hw : WriteStep s o c l)
      (hs : (c = .fs0 ∧ sy = .syncing) ∨ (c ≠ .fs0 ∧ sy = s.sync)) :
      CommandEffect s { s with pktBuf := pkt, crcAcc := acc, sync := sy, tmpVisit := visit, seq := .call o c'
                               tx := s.tx ++ l, hist := s.hist ++ [.tx l] }
  /-- A read returns. -/
  | reads (o : Label) (c : SubLabel) (n : Nat) (hf : s.draw.fails = false) (h : s.seq = .call o c)
      (hn : s.readNeed c = some n) (hl : n ≤ s.rxf.length) : CommandEffect s (s.readReturns o c n)
  /-- A read is blocked. -/
  | blocks (o : Label) (c : SubLabel) (n : Nat) (hf : s.draw.fails = false) (h : s.seq = .call o c)
      (hn : s.readNeed c = some n) (hl : s.rxf.length < n) : CommandEffect s { s with reading := true }
  /-- A visit of the poll. -/
  | polls (o : Label) (c' : SubLabel) (n : Nat) (r : Byte) (h : s.seq = .call o .fs1) :
      CommandEffect s { s with tmpNavail := n, resp := r, seq := .call o c', hist := s.hist ++ [.avail s.rxf.length] }
  /-- The poll's wait. -/
  | pollWaits (o : Label) (h : s.seq = .call o .fs2) :
      CommandEffect s { s with tmpVisit := s.tmpVisit + 1, seq := .call o .fs1, hist := s.hist ++ [.wait pollInterval] }
  /-- A wait of TAP_COMMAND. -/
  | tapWaits (l : Label) (w : Seconds) (q : Seq) (h : s.seq = .at l) (hl : l = .t1 ∨ l = .t3) :
      CommandEffect s { s with seq := q, hist := s.hist ++ [.wait w] }
  /-- The step of a pure command, or the last of TAP_COMMAND. -/
  | computes (l : Label) (acc : Byte) (pkt : Packet) (oc : Byte) (op : Packet) (od : Byte) (oxy : Byte × Byte)
      (opl : Payload) (ok : Bool) (h : s.seq = .at l) (hl : l = .k0 ∨ l = .e0 ∨ l = .t4)
      (hoc : oc ≠ s.outCrc → s.cmdOp = 0x1#4) (hop : op ≠ s.outPkt → s.cmdOp = 0x2#4)
      (hod : od ≠ s.outDpad → s.cmdOp = 0xA#4) (hxy : oxy ≠ s.outXY → s.cmdOp = 0xB#4)
      (hpl : opl ≠ s.outPayload → s.cmdOp = 0xC#4) :
      CommandEffect s (({ s with crcAcc := acc, pktBuf := pkt, outCrc := oc, outPkt := op, outDpad := od, outXY := oxy
                                 outPayload := opl } : State).complete ok)
  /-- A verdict that completes the command. -/
  | verdictEnds (o : Label) (c : SubLabel) (sy : SyncStatus) (ok1 ok : Bool) (h : s.seq = .call o c)
      (hv : VerdictStep s c sy) : CommandEffect s (({ s with sync := sy, tmpOk1 := ok1 } : State).complete ok)
  /-- A verdict after which the command goes on. -/
  | verdictGoesOn (o : Label) (c : SubLabel) (sy : SyncStatus) (ok1 ok : Bool) (q : Seq) (h : s.seq = .call o c)
      (hv : VerdictStep s c sy) : CommandEffect s { s with sync := sy, tmpOk1 := ok1, tmpOk := ok, seq := q }
  /-- TEARDOWN on a closed link. -/
  | teardownEnds (h : s.seq = .call .d0 .sp0) (hl : s.link = .closed) : CommandEffect s (s.complete false)
  /-- TEARDOWN closes the link. -/
  | closes (h : s.seq = .at .d1) : CommandEffect s (s.closeLink.complete s.tmpOk)

theorem decodeCommand_opcode (d : Descriptor) : (decodeCommand d).opcode = some d.op := by
  have all : ∀ op : OpCode, op = 0x0#4 ∨ op = 0x1#4 ∨ op = 0x2#4 ∨ op = 0x3#4 ∨ op = 0x4#4 ∨ op = 0x5#4 ∨ op = 0x6#4 ∨
      op = 0x7#4 ∨ op = 0x8#4 ∨ op = 0x9#4 ∨ op = 0xA#4 ∨ op = 0xB#4 ∨ op = 0xC#4 ∨ op = 0xD#4 ∨ op = 0xE#4 ∨
      op = 0xF#4 := by decide
  obtain ⟨op, _⟩ := d
  rcases all op with h | h | h | h | h | h | h | h | h | h | h | h | h | h | h | h <;> subst h <;> rfl

/-- Two descriptors of one command have one OP and pass or fail the operand checks alike (30 R59, R62). -/
theorem decodeCommand_eq {a b : Descriptor} (h : decodeCommand a = decodeCommand b) :
    a.op = b.op ∧ operandsOk a = operandsOk b := by
  have hop : a.op = b.op := by
    have := congrArg Instr.opcode h
    rw [decodeCommand_opcode, decodeCommand_opcode] at this
    exact Option.some.inj this
  refine ⟨hop, ?_⟩
  unfold operandsOk operandsOkWith
  rw [hop]
  obtain ⟨oa, da, _⟩ := a
  obtain ⟨ob, db, _⟩ := b
  cases hop
  dsimp only
  by_cases h1 : oa = 0x1#4
  · subst h1; cases h; rfl
  · by_cases h2 : oa = 0x2#4
    · subst h2; cases h; rfl
    · by_cases h3 : oa = 0x3#4
      · subst h3; cases h; rfl
      · by_cases h4 : oa = 0x4#4
        · subst h4; cases h; rfl
        · simp [h1, h2, h3, h4]

/-- The descriptor offered for a command is one of that command (30 R74). -/
theorem State.offered_decode {i : Instr} {d : Descriptor} (h : decodeCommand d = i) (s : State) :
    decodeCommand (s.offered i d) = i := by
  unfold State.offered
  split
  · split
    · assumption
    · exact h
  · exact h

theorem State.offered_eq {i : Instr} {d : Descriptor} (h : decodeCommand d = i) (s : State) :
    (s.offered i d).op = d.op ∧ operandsOk (s.offered i d) = operandsOk d :=
  decodeCommand_eq ((State.offered_decode h s).trans h.symm)

/-- An idle Core, ready for a command that passes the checks, begins it (30 R74). -/
theorem exec_begins {i : Instr} {d : Descriptor} (hd : encodeCommand i = some d) (h : decodeCommand d = i.core)
    (hs : s.idleReady) (hl : opUsesTransport d.op = true → s.link = .opened) (hr : opReserved d.op = false)
    (ho : operandsOk d = true) :
    exec i s = .next { s with cmd := some (s.offered i.core d), port := s.portAfter i.core, busy := true
                              seq := firstStep d.op } := by
  obtain ⟨h1, h2⟩ := State.offered_eq h s
  rw [exec_idle hd hs.1]
  rcases State.accept_effect (s.offered i.core d) (s.portAfter i.core) s with
    ⟨ha, _⟩ | ⟨_, hf, _⟩ | ⟨_, _, c, hc, _, e⟩ | ⟨_, _, _, _, _, e⟩
  · rw [hs.2.2] at ha; cases ha
  · exact absurd hs.2.1 hf
  · exfalso
    have hb : (s.accept (s.offered i.core d) (s.portAfter i.core)).busy = true := by
      unfold State.accept
      rw [if_neg (by rw [hs.2.2]; decide), if_neg (fun hx => hx.1 hs.2.1), if_neg (by rw [h1, hr]; decide),
        if_neg (by rw [h1]; exact fun hx => absurd (hl hx.1) (by rw [hx.2.2]; decide)), if_pos (by rw [h2, ho])]
      rfl
    rw [e] at hb
    cases hb
  · rw [e, h1]

theorem State.cmdOp_of_decode {i : Instr} {op : OpCode} (hi : i.opcode = some op)
    (hc : s.cmd.map decodeCommand = some i) : s.cmdOp = op := by
  unfold State.cmdOp
  cases h : s.cmd with
  | none => rw [h] at hc; cases hc
  | some d =>
    rw [h, Option.map_some, Option.some.injEq] at hc
    rw [← hc, decodeCommand_opcode] at hi
    exact Option.some.inj hi

theorem verdict_sync (b : Byte) : (if parseAck b then SyncStatus.synced else .outOfSync) =
    if b = byteUsbAck then .synced else .outOfSync := by
  unfold parseAck
  by_cases h : b = byteUsbAck <;> simp [h]

theorem State.txWrite_effect {o : Label} {c c' : SubLabel} {l : List Byte} (pkt : Packet) (acc : Byte)
    (sy : SyncStatus) (visit : Nat) (h : s.seq = .call o c) (hw : WriteStep s o c l)
    (hs : (c = .fs0 ∧ sy = .syncing) ∨ (c ≠ .fs0 ∧ sy = s.sync)) :
    CommandEffect s (({ s with pktBuf := pkt, crcAcc := acc, sync := sy, tmpVisit := visit } : State).txWrite l
      (State.goto (.call o c'))) := by
  rcases State.txWrite_cases l (State.goto (.call o c'))
    { s with pktBuf := pkt, crcAcc := acc, sync := sy, tmpVisit := visit } with ⟨hf, e⟩ | ⟨hf, e⟩ <;> rw [e]
  · exact .writeFails o c l pkt acc sy visit hf h hw
  · exact .writes o c c' l pkt acc sy visit hf h hw hs

/-- Every step of an executing command has one of the effects. -/
theorem command_effects (h : CommandStep s t) : CommandEffect s t := by
  cases h with
  | crc8 data hc h =>
    exact .computes _ _ s.pktBuf _ s.outPkt s.outDpad s.outXY s.outPayload _ h (.inl rfl)
      (fun _ => State.cmdOp_of_decode rfl hc) (by simp) (by simp) (by simp) (by simp)
  | buildPacket data p hc hp h =>
    exact .computes _ _ _ s.outCrc _ s.outDpad s.outXY s.outPayload _ h (.inl rfl) (by simp)
      (fun _ => State.cmdOp_of_decode rfl hc) (by simp) (by simp) (by simp)
  | parseAck b hc h =>
    exact .computes _ s.crcAcc s.pktBuf s.outCrc s.outPkt s.outDpad s.outXY s.outPayload _ h (.inl rfl) (by simp)
      (by simp) (by simp) (by simp) (by simp)
  | encodeDpad f hc h =>
    exact .computes _ s.crcAcc s.pktBuf s.outCrc s.outPkt _ s.outXY s.outPayload _ h (.inr (.inl rfl)) (by simp)
      (by simp) (fun _ => State.cmdOp_of_decode rfl hc) (by simp) (by simp)
  | polar a i hc h =>
    exact .computes _ s.crcAcc s.pktBuf s.outCrc s.outPkt s.outDpad _ s.outPayload _ h (.inr (.inl rfl)) (by simp)
      (by simp) (by simp) (fun _ => State.cmdOp_of_decode rfl hc) (by simp)
  | decode v hc h =>
    exact .computes _ s.crcAcc s.pktBuf s.outCrc s.outPkt s.outDpad s.outXY _ _ h (.inr (.inl rfl)) (by simp)
      (by simp) (by simp) (by simp) (fun _ => State.cmdOp_of_decode rfl hc)
  | sp0 o p h hp =>
    exact State.txWrite_effect _ _ s.sync s.tmpVisit h (.packet o p hp) (.inr ⟨by decide, rfl⟩)
  | read o c n h hn =>
    rcases State.rxRead_cases o c n s with ⟨hf, e⟩ | ⟨hf, hl, e⟩ | ⟨hf, hl, e⟩ <;> rw [e]
    · exact .readFails o c hf h (.inr (by rw [hn]; simp))
    · exact .reads o c n hf h hn hl
    · exact .blocks o c n hf h hn hl
  | sp2Done o h ho => exact .verdictEnds o .sp2 _ s.tmpOk1 _ h (by rw [verdict_sync]; exact .sp2)
  | sp2Y0 h =>
    have hv := verdict_sync s.resp
    unfold State.stepSp2 afterY0
    dsimp only
    split
    · rename_i hp
      rw [if_pos hp] at hv
      exact .verdictEnds _ .sp2 _ _ _ h (by rw [hv]; exact .sp2)
    · rename_i hp
      rw [if_neg hp] at hv
      exact .verdictGoesOn _ .sp2 _ _ s.tmpOk _ h (by rw [hv]; exact .sp2)
  | sp2T0 h => exact .verdictGoesOn _ .sp2 _ _ s.tmpOk _ h (by rw [verdict_sync]; exact .sp2)
  | sp2T2 h => exact .verdictGoesOn _ .sp2 _ s.tmpOk1 _ _ h (by rw [verdict_sync]; exact .sp2)
  | sp2D0 h => exact .verdictGoesOn _ .sp2 _ s.tmpOk1 _ _ h (by rw [verdict_sync]; exact .sp2)
  | fs0 o h ho => exact State.txWrite_effect s.pktBuf s.crcAcc _ _ h (.flush o ho) (.inl ⟨rfl, rfl⟩)
  | fs1 o h ho =>
    rcases State.stepFs1With_cases Config.syncWaitBound o s with
      ⟨hf, e⟩ | ⟨_, _, e⟩ | ⟨_, hr, _, e⟩ | ⟨_, hr, _, e⟩ <;> rw [e]
    · exact .readFails o .fs1 hf h (.inl rfl)
    · exact .polls o .fs3 _ s.resp h
    · have h0 : s.rxf.length = 0 := by rw [hr]; rfl
      have := CommandEffect.polls o .fsx s.tmpNavail byteNoData h
      rwa [h0] at this
    · have h0 : s.rxf.length = 0 := by rw [hr]; rfl
      have := CommandEffect.polls o .fs2 s.tmpNavail s.resp h
      rwa [h0] at this
  | fs2 o h ho => exact .pollWaits o h
  | fs4 o h ho =>
    exact State.txWrite_effect s.pktBuf s.crcAcc s.sync s.tmpVisit h (.sync1 o ho) (.inr ⟨by decide, rfl⟩)
  | fs6 o h ho =>
    exact State.txWrite_effect s.pktBuf s.crcAcc s.sync s.tmpVisit h (.sync2 o ho) (.inr ⟨by decide, rfl⟩)
  | fs8F0 h => exact .verdictEnds _ .fs8 _ s.tmpOk1 _ h .fs8
  | fs8Y1 h => exact .verdictGoesOn _ .fs8 _ s.tmpOk1 s.tmpOk _ h .fs8
  | fsxF0 h => exact .verdictEnds _ .fsx _ s.tmpOk1 _ h .fsx
  | fsxY1 h => exact .verdictEnds _ .fsx _ s.tmpOk1 _ h .fsx
  | t1 h => exact .tapWaits _ _ _ h (.inl rfl)
  | t3 hold h => exact .tapWaits _ _ _ h (.inr rfl)
  | t4 h =>
    exact .computes _ s.crcAcc s.pktBuf s.outCrc s.outPkt s.outDpad s.outXY s.outPayload _ h (.inr (.inr rfl))
      (by simp) (by simp) (by simp) (by simp) (by simp)
  | d0Closed h hl => exact .teardownEnds h hl
  | d1 h => exact .closes h

/-! ### A move -/

/-- The state with the model's own fields and the port as a move leaves them. -/
def State.drawn (s : State) (d : Draw) (p : Option Descriptor) (sc : List Move) (tk : Nat) : State :=
  { s with draw := d, port := p, sched := sc, tick := tk }

/-- What a move does to the state: the schedule moves on, and then one of these. -/
inductive MoveEffect (s : State) : Move → State → Prop where
  /-- The port holds a descriptor, or nothing but the model's own fields changes. -/
  | portOnly (m : Move) (d : Draw) (p : Option Descriptor) (sc : List Move) (tk : Nat) : MoveEffect s m (s.drawn d p sc tk)
  /-- An idle Core accepts the descriptor the port holds. -/
  | accepts (d : Draw) (c : Descriptor) (sc : List Move) (tk : Nat) (hb : s.busy = false) (hp : s.port = some c) :
      MoveEffect s (.core d) ((s.drawn d s.port sc tk).accept c none)
  /-- An ABORT is taken. -/
  | aborts (m : Move) (d : Draw) (p : Option Descriptor) (sc : List Move) (tk : Nat) (ha : s.abortReq = true)
      (hb : s.busy = true → s.cmdOp ≠ opTeardown) : MoveEffect s m (s.drawn d p sc tk).takeAbort
  /-- The executing command takes a step. -/
  | commandSteps (d : Draw) (sc : List Move) (tk : Nat) (t : State) (hb : s.busy = true)
      (ha : s.abortDue = true → (s.drawn d s.port sc tk).readHasOutcome = true)
      (h : CommandStep (s.drawn d s.port sc tk) t) : MoveEffect s (.core d) t
  /-- A byte arrives. -/
  | arrives (b : Byte) (sc : List Move) (tk : Nat) : MoveEffect s (.arrive b) ((s.drawn s.draw s.port sc tk).arrive b)
  /-- A blocked read times out. -/
  | timesOut (sc : List Move) (tk : Nat) (o : Label) (c : SubLabel) (n : Nat) (hb : s.busy = true) (hr : s.reading = true)
      (hq : s.seq = .call o c) (hn : s.readNeed c = some n) (hl : s.rxf.length < n) :
      MoveEffect s .timeout ((s.drawn s.draw s.port sc tk).readReturns o c s.rxf.length)
  /-- The Host raises ABORT_REQ. -/
  | raises (sc : List Move) (tk : Nat) :
      MoveEffect s .abort { s.drawn s.draw s.port sc tk with abortReq := true }
  /-- Reset. -/
  | resets (sc : List Move) (tk : Nat) : MoveEffect s .reset (s.drawn s.draw s.port sc tk).resetCore

theorem State.abortDue_true (hb : s.busy = true) (h : s.abortDue = true) : s.abortReq = true ∧ s.cmdOp ≠ opTeardown := by
  simpa [State.abortDue, State.inTeardown, hb] using h

/-- Every step of the machine has one of the effects. -/
theorem step_effects (h : step s = .next t) : MoveEffect s s.nextMove.1 t := by
  have h := step_steps h
  obtain ⟨m, sc, tk, hm⟩ : ∃ m sc tk, s.nextMove = (m, s.drawn s.draw s.port sc tk) := by
    rcases State.nextMove_cases s with ⟨m, rest, _, h2⟩ | ⟨_, h2⟩
    · exact ⟨m, rest, s.tick, h2⟩
    · exact ⟨_, s.sched, _, h2⟩
  rw [hm] at h ⊢
  dsimp only at h ⊢
  cases h with
  | core d _ _ c hb hc h =>
    cases h with
    | hold x => rw [State.presentOnPort_eq]; exact .portOnly _ d _ sc tk
    | accept _ _ hb' => exact absurd (hb.symm.trans hb') (by decide)
    | abort hb' ha _ =>
      have := State.abortDue_true hb' ha
      exact .aborts _ d s.port sc tk this.1 (fun _ => this.2)
    | command _ hb' ha h => exact .commandSteps d sc tk t hb ha h
  | coreAccepts d _ c hb hp => exact .accepts d c sc tk hb hp
  | coreIdleAbort d _ hb ha => exact .aborts _ d s.port sc tk ha (fun h => absurd (hb.symm.trans h) (by decide))
  | coreWaits d _ => exact .portOnly _ d s.port sc tk
  | arrive b _ => exact .arrives b sc tk
  | timeout _ =>
    rcases State.readTimesOutWith_cases Config.readTimeout (s.drawn s.draw s.port sc tk) with
      h | ⟨hb, hr, o, c, n, hq, hn, hl, h⟩ <;> unfold State.readTimesOut <;> rw [h]
    · exact .portOnly _ s.draw s.port sc tk
    · exact .timesOut sc tk o c n hb hr hq hn hl
  | present d _ => rw [State.presentOnPort_eq]; exact .portOnly _ s.draw _ sc tk
  | abort _ => exact .raises sc tk
  | reset _ => exact .resets sc tk
  | hostRead _ => exact .portOnly _ s.draw s.port sc tk
  | hostWrite v _ => exact .portOnly _ s.draw s.port sc tk

end Sys2Proof.Machine
end

