-- ==== Sys2Proof/Laws/PerInstr.lean ====
section
/-! SUPPORT. A law of each instruction as syntax: on which interface its encoding stands (30_encoding R58 to R66). -/

namespace Sys2Proof.Laws.OnInterface

open Sys2Proof

/-- A command is encoded on the command port, as a descriptor with its own OP; a wire symbol never stands there. -/
def Statement (i : Instr) : Prop :=
  (∀ op, i.opcode = some op → ∃ d, encode i = .cmd d ∧ encodeCommand i = some d ∧ d.op = op) ∧
    (i.opcode = none → encodeCommand i = none ∧ ∀ d, encode i ≠ .cmd d)

theorem of_command {i : Instr} {d : Descriptor} (h1 : encode i = .cmd d) (h2 : encodeCommand i = some d)
    (h3 : i.opcode = some d.op) : Statement i := by
  refine ⟨fun op h => ⟨d, h1, h2, ?_⟩, fun h => ?_⟩
  · rw [h3] at h; exact Option.some.inj h
  · rw [h3] at h; cases h

theorem of_symbol {i : Instr} (h1 : i.opcode = none) (h2 : encodeCommand i = none) (h3 : ∀ d, encode i ≠ .cmd d) :
    Statement i :=
  ⟨fun _ h => absurd (h1.symm.trans h) nofun, fun _ => ⟨h2, h3⟩⟩

theorem crc8 (data : List Byte) : Statement (.crc8 data) := of_command rfl rfl rfl
theorem buildPacket (data : List Byte) : Statement (.buildPacket data) := of_command rfl rfl rfl
theorem parseAck (data : List Byte) : Statement (.parseAck data) := of_command rfl rfl rfl
theorem sendPacket (data : List Byte) : Statement (.sendPacket data) := of_command rfl rfl rfl
theorem forceSync : Statement .forceSync := of_command rfl rfl rfl
theorem sync : Statement .sync := of_command rfl rfl rfl
theorem sendCommand (state : BitVec 64) : Statement (.sendCommand state) := of_command rfl rfl rfl
theorem tapCommand (state : BitVec 64) (hold : Seconds) : Statement (.tapCommand state hold) := of_command rfl rfl rfl
theorem teardown : Statement .teardown := of_command rfl rfl rfl
theorem encodeDpad (flags : Byte) : Statement (.encodeDpad flags) := of_command rfl rfl rfl
theorem polarToCartesian (angle : Int) (intensity : Byte) : Statement (.polarToCartesian angle intensity) := of_command rfl rfl rfl
theorem decodeControllerState (state : BitVec 64) : Statement (.decodeControllerState state) := of_command rfl rfl rfl
theorem reserved0 : Statement .reserved0 := of_command rfl rfl rfl
theorem reservedD : Statement .reservedD := of_command rfl rfl rfl
theorem reservedE : Statement .reservedE := of_command rfl rfl rfl
theorem reservedF : Statement .reservedF := of_command rfl rfl rfl
theorem release : Statement .release := of_command rfl rfl rfl
theorem syncStart : Statement .syncStart := of_symbol rfl rfl (fun _ h => nomatch h)
theorem sync1 : Statement .sync1 := of_symbol rfl rfl (fun _ h => nomatch h)
theorem sync2 : Statement .sync2 := of_symbol rfl rfl (fun _ h => nomatch h)
theorem usbAck : Statement .usbAck := of_symbol rfl rfl (fun _ h => nomatch h)
theorem updateAck : Statement .updateAck := of_symbol rfl rfl (fun _ h => nomatch h)
theorem updateNack : Statement .updateNack := of_symbol rfl rfl (fun _ h => nomatch h)
theorem syncStartEcho : Statement .syncStartEcho := of_symbol rfl rfl (fun _ h => nomatch h)
theorem sync1Response : Statement .sync1Response := of_symbol rfl rfl (fun _ h => nomatch h)
theorem syncOkResponse : Statement .syncOkResponse := of_symbol rfl rfl (fun _ h => nomatch h)
theorem noData : Statement .noData := of_symbol rfl rfl (fun _ h => nomatch h)
theorem wirePacket (payload : Payload) : Statement (.wirePacket payload) := of_symbol rfl rfl (fun _ h => nomatch h)

end Sys2Proof.Laws.OnInterface
end

