-- ==== Sys2Proof/Laws/Polar.lean ====
section
/-! SUPPORT. The rational cosine and sine of Machine/Polar.lean lie within `trigSlack` of the real ones
(40_payload_encoder R84; log 12), and the clamp's bounds. -/

namespace Sys2Proof.Machine

open Finset

/-! ### The series -/

/-- The first 30 terms of the exponential of `y i` are the two alternating series. -/
theorem exp_terms (y : ℚ) : ∑ m ∈ range 30, ((y : ℂ) * Complex.I) ^ m / (m.factorial : ℂ) =
    ((altSeries (y * y) 14 1 : ℚ) : ℂ) + ((y * altSeries (y * y) 14 2 : ℚ) : ℂ) * Complex.I := by
  have even : ∀ k : ℕ, ((y : ℂ) * Complex.I) ^ (2 * k) = (-1) ^ k * (y : ℂ) ^ (2 * k) := by
    intro k
    rw [mul_pow, pow_mul Complex.I, Complex.I_sq, mul_comm]
  have odd : ∀ k : ℕ, ((y : ℂ) * Complex.I) ^ (2 * k + 1) = (-1) ^ k * (y : ℂ) ^ (2 * k + 1) * Complex.I := by
    intro k
    rw [pow_succ, even]
    ring
  have pairs : ∀ (f : ℕ → ℂ) (n : ℕ),
      ∑ m ∈ range (2 * n), f m = ∑ k ∈ range n, f (2 * k) + ∑ k ∈ range n, f (2 * k + 1) := by
    intro f n
    induction n with
    | zero => simp
    | succ n ih =>
      rw [Nat.mul_succ, sum_range_succ, sum_range_succ, ih, sum_range_succ, sum_range_succ]
      ring
  rw [show (30 : ℕ) = 2 * 15 from rfl, pairs]
  simp only [even, odd]
  congr 1 <;>
    (simp only [altSeries]
     push_cast
     simp only [sum_range_succ, sum_range_zero, Nat.factorial]
     push_cast
     ring)

theorem exp_close {y : ℚ} (h0 : 0 ≤ y) (h1 : y ≤ 8 / 5) :
    ‖Complex.exp (y * Complex.I) - (((altSeries (y * y) 14 1 : ℚ) : ℂ) +
      ((y * altSeries (y * y) 14 2 : ℚ) : ℂ) * Complex.I)‖ ≤ 1 / 10 ^ 20 := by
  have h0' : (0 : ℝ) ≤ y := by exact_mod_cast h0
  have h1' : (y : ℝ) ≤ 8 / 5 := by
    have : (y : ℝ) ≤ ((8 / 5 : ℚ) : ℝ) := Rat.cast_le.mpr h1
    push_cast at this
    exact this
  have hn : ‖(y : ℂ) * Complex.I‖ = (y : ℝ) := by
    rw [norm_mul, Complex.norm_I, mul_one, show (y : ℂ) = ((y : ℝ) : ℂ) by push_cast; rfl, Complex.norm_real,
      Real.norm_of_nonneg h0']
  have key := Complex.exp_bound' (x := (y : ℂ) * Complex.I) (n := 30) (by rw [hn]; norm_num; linarith)
  rw [exp_terms, hn] at key
  refine key.trans ?_
  have hp : (y : ℝ) ^ 30 ≤ (8 / 5) ^ 30 := pow_le_pow_left₀ h0' h1' 30
  calc (y : ℝ) ^ 30 / (Nat.factorial 30 : ℝ) * 2 ≤ (8 / 5) ^ 30 / (Nat.factorial 30 : ℝ) * 2 := by gcongr
    _ ≤ 1 / 10 ^ 20 := by norm_num [Nat.factorial]

theorem cos_series_close {y : ℚ} (h0 : 0 ≤ y) (h1 : y ≤ 8 / 5) :
    |Real.cos y - (altSeries (y * y) 14 1 : ℚ)| ≤ 1 / 10 ^ 20 := by
  have h := (Complex.abs_re_le_norm _).trans (exp_close h0 h1)
  rw [show (y : ℂ) = ((y : ℝ) : ℂ) by push_cast; rfl] at h
  simpa only [Complex.sub_re, Complex.exp_ofReal_mul_I_re, Complex.add_re, Complex.mul_re, Complex.I_re, Complex.I_im,
    Complex.ratCast_re, Complex.ratCast_im, mul_zero, mul_one, sub_zero, add_zero, zero_mul, sub_self] using h

theorem sin_series_close {y : ℚ} (h0 : 0 ≤ y) (h1 : y ≤ 8 / 5) :
    |Real.sin y - (y * altSeries (y * y) 14 2 : ℚ)| ≤ 1 / 10 ^ 20 := by
  have h := (Complex.abs_im_le_norm _).trans (exp_close h0 h1)
  rw [show (y : ℂ) = ((y : ℝ) : ℂ) by push_cast; rfl] at h
  simpa only [Complex.sub_im, Complex.exp_ofReal_mul_I_im, Complex.add_im, Complex.mul_im, Complex.I_re, Complex.I_im,
    Complex.ratCast_re, Complex.ratCast_im, mul_zero, mul_one, zero_add, add_zero, zero_mul] using h

/-! ### One quarter of the circle -/

theorem radians_close {r : ℚ} (h0 : 0 ≤ r) (h1 : r ≤ 90) :
    |(r : ℝ) * Real.pi / 180 - ((r * radPerDeg : ℚ) : ℝ)| ≤ 1 / 10 ^ 20 := by
  have h0' : (0 : ℝ) ≤ r := by exact_mod_cast h0
  have h1' : (r : ℝ) ≤ 90 := by exact_mod_cast h1
  have hl := Real.pi_gt_d20
  have hu := Real.pi_lt_d20
  have he : (r : ℝ) * Real.pi / 180 - ((r * radPerDeg : ℚ) : ℝ) = r * ((Real.pi - 3.14159265358979323846) / 180) := by
    unfold radPerDeg
    push_cast
    ring
  rw [he, abs_of_nonneg (mul_nonneg h0' (by linarith))]
  have hm : (Real.pi - 3.14159265358979323846) / 180 ≤ (1 / 10 ^ 20) / 180 := by
    have : (3.14159265358979323847 : ℝ) - 3.14159265358979323846 = 1 / 10 ^ 20 := by norm_num
    linarith
  calc (r : ℝ) * ((Real.pi - 3.14159265358979323846) / 180) ≤ 90 * ((1 / 10 ^ 20) / 180) :=
        mul_le_mul h1' hm (by linarith) (by norm_num)
    _ ≤ 1 / 10 ^ 20 := by norm_num

theorem quarter_range {r : ℚ} (h0 : 0 ≤ r) (h1 : r ≤ 90) : 0 ≤ r * radPerDeg ∧ r * radPerDeg ≤ 8 / 5 := by
  unfold radPerDeg
  constructor
  · positivity
  · linarith

theorem cosQuarter_close {r : ℚ} (h0 : 0 ≤ r) (h1 : r ≤ 90) :
    |Real.cos (r * Real.pi / 180) - (cosQuarter r : ℚ)| ≤ 1 / 10 ^ 15 := by
  have hr := quarter_range h0 h1
  have ha := cos_series_close hr.1 hr.2
  have hb := (Real.abs_cos_sub_cos_le (r * Real.pi / 180) ((r * radPerDeg : ℚ) : ℝ)).trans (radians_close h0 h1)
  have hc := abs_add_le (Real.cos (r * Real.pi / 180) - Real.cos ((r * radPerDeg : ℚ) : ℝ))
    (Real.cos ((r * radPerDeg : ℚ) : ℝ) - (cosQuarter r : ℚ))
  rw [sub_add_sub_cancel] at hc
  have hn : (1 : ℝ) / 10 ^ 20 + 1 / 10 ^ 20 ≤ 1 / 10 ^ 15 := by norm_num
  exact hc.trans ((add_le_add hb ha).trans hn)

theorem sinQuarter_close {r : ℚ} (h0 : 0 ≤ r) (h1 : r ≤ 90) :
    |Real.sin (r * Real.pi / 180) - (sinQuarter r : ℚ)| ≤ 1 / 10 ^ 15 := by
  have hr := quarter_range h0 h1
  have ha := sin_series_close hr.1 hr.2
  have hb := (Real.abs_sin_sub_sin_le (r * Real.pi / 180) ((r * radPerDeg : ℚ) : ℝ)).trans (radians_close h0 h1)
  have hc := abs_add_le (Real.sin (r * Real.pi / 180) - Real.sin ((r * radPerDeg : ℚ) : ℝ))
    (Real.sin ((r * radPerDeg : ℚ) : ℝ) - (sinQuarter r : ℚ))
  rw [sub_add_sub_cancel] at hc
  have hn : (1 : ℝ) / 10 ^ 20 + 1 / 10 ^ 20 ≤ 1 / 10 ^ 15 := by norm_num
  exact hc.trans ((add_le_add hb ha).trans hn)

/-! ### The whole circle -/

theorem quadrant_cases {t : ℚ} (h0 : 0 ≤ t) (h1 : t < 360) :
    (quadrant t = 0 ∨ quadrant t = 1 ∨ quadrant t = 2 ∨ quadrant t = 3) ∧
      0 ≤ t - 90 * quadrant t ∧ t - 90 * quadrant t < 90 := by
  have hl : ((quadrant t : ℤ) : ℚ) ≤ t / 90 := Rat.floor_le _
  have hu : t / 90 < ((quadrant t : ℤ) : ℚ) + 1 := by
    have := Rat.lt_floor_add_one (t / 90)
    unfold quadrant
    push_cast at this ⊢
    exact this
  have hq0 : -1 < quadrant t := by
    have : ((-1 : ℤ) : ℚ) < quadrant t := by push_cast; linarith
    exact_mod_cast this
  have hq4 : quadrant t < 4 := by
    have : ((quadrant t : ℤ) : ℚ) < ((4 : ℤ) : ℚ) := by push_cast; linarith
    exact_mod_cast this
  exact ⟨by omega, by linarith, by linarith⟩

theorem quarter_axis : cosQuarter 0 = 1 ∧ sinQuarter 0 = 0 := by
  constructor
  · norm_num [cosQuarter, altSeries]
  · norm_num [sinQuarter]

/-- The true cosine of the remainder angle, and what it is at 0. -/
theorem slack_of {t : ℚ} {a : ℝ} {v : ℚ} (hne : t ≠ 90 * quadrant t → |a - (v : ℝ)| ≤ 1 / 10 ^ 15)
    (heq : t = 90 * quadrant t → a = (v : ℝ)) : |a - (v : ℝ)| ≤ ((trigSlack t : ℚ) : ℝ) := by
  unfold trigSlack
  by_cases h : t = 90 * quadrant t
  · rw [if_pos h, heq h]; simp
  · rw [if_neg h]
    refine (hne h).trans ?_
    norm_num

theorem angle_split (t : ℚ) (k : ℤ) :
    (t : ℝ) * Real.pi / 180 = ((t - 90 * k : ℚ) : ℝ) * Real.pi / 180 + k * (Real.pi / 2) := by
  push_cast
  ring

/-- The model's cosine lies within the slack of the real one, at every angle of one turn. -/
theorem cosDeg_close {t : ℚ} (h0 : 0 ≤ t) (h1 : t < 360) :
    |Real.cos (t * Real.pi / 180) - (cosDeg t : ℚ)| ≤ ((trigSlack t : ℚ) : ℝ) := by
  obtain ⟨hq, hr0, hr1⟩ := quadrant_cases h0 h1
  have hc := cosQuarter_close hr0 hr1.le
  have hs := sinQuarter_close hr0 hr1.le
  rw [angle_split t (quadrant t)]
  have hz : t = 90 * quadrant t → t - 90 * quadrant t = 0 := fun h => by linarith
  generalize hr : t - 90 * (quadrant t : ℚ) = r at *
  have hcos : cosDeg t = match quadrant t with
      | 0 => cosQuarter r | 1 => - sinQuarter r | 2 => - cosQuarter r | _ => sinQuarter r := by
    rw [← hr]; rfl
  rw [hcos]
  rcases hq with h | h | h | h <;> rw [h] <;> refine slack_of (fun _ => ?_) (fun he => ?_)
  · simpa using hc
  · rw [hz he]; simp [quarter_axis.1]
  · rw [Int.cast_one, one_mul, Real.cos_add_pi_div_two]
    change |_ - ((-sinQuarter r : ℚ) : ℝ)| ≤ _
    rw [Rat.cast_neg, neg_sub_neg, abs_sub_comm]; exact hs
  · rw [hz he]; simp [quarter_axis.2]
  · rw [show ((2 : ℤ) : ℝ) * (Real.pi / 2) = Real.pi by push_cast; ring, Real.cos_add_pi]
    change |_ - ((-cosQuarter r : ℚ) : ℝ)| ≤ _
    rw [Rat.cast_neg, neg_sub_neg,
      abs_sub_comm]; exact hc
  · rw [hz he, show ((2 : ℤ) : ℝ) * (Real.pi / 2) = Real.pi by push_cast; ring]; simp [quarter_axis.1]
  · rw [show ((3 : ℤ) : ℝ) * (Real.pi / 2) = Real.pi + Real.pi / 2 by push_cast; ring, ← add_assoc,
      Real.cos_add_pi_div_two, Real.sin_add_pi, neg_neg]; exact hs
  · rw [hz he, show ((3 : ℤ) : ℝ) * (Real.pi / 2) = Real.pi + Real.pi / 2 by push_cast; ring, ← add_assoc,
      Real.cos_add_pi_div_two, Real.sin_add_pi]; simp [quarter_axis.2]

/-- The model's sine lies within the slack of the real one, at every angle of one turn. -/
theorem sinDeg_close {t : ℚ} (h0 : 0 ≤ t) (h1 : t < 360) :
    |Real.sin (t * Real.pi / 180) - (sinDeg t : ℚ)| ≤ ((trigSlack t : ℚ) : ℝ) := by
  obtain ⟨hq, hr0, hr1⟩ := quadrant_cases h0 h1
  have hc := cosQuarter_close hr0 hr1.le
  have hs := sinQuarter_close hr0 hr1.le
  rw [angle_split t (quadrant t)]
  have hz : t = 90 * quadrant t → t - 90 * quadrant t = 0 := fun h => by linarith
  generalize hr : t - 90 * (quadrant t : ℚ) = r at *
  have hsin : sinDeg t = match quadrant t with
      | 0 => sinQuarter r | 1 => cosQuarter r | 2 => - sinQuarter r | _ => - cosQuarter r := by
    rw [← hr]; rfl
  rw [hsin]
  rcases hq with h | h | h | h <;> rw [h] <;> refine slack_of (fun _ => ?_) (fun he => ?_)
  · simpa using hs
  · rw [hz he]; simp [quarter_axis.2]
  · rw [Int.cast_one, one_mul, Real.sin_add_pi_div_two]; exact hc
  · rw [hz he]; simp [quarter_axis.1]
  · rw [show ((2 : ℤ) : ℝ) * (Real.pi / 2) = Real.pi by push_cast; ring, Real.sin_add_pi]
    change |_ - ((-sinQuarter r : ℚ) : ℝ)| ≤ _
    rw [Rat.cast_neg, neg_sub_neg,
      abs_sub_comm]; exact hs
  · rw [hz he, show ((2 : ℤ) : ℝ) * (Real.pi / 2) = Real.pi by push_cast; ring]; simp [quarter_axis.2]
  · rw [show ((3 : ℤ) : ℝ) * (Real.pi / 2) = Real.pi + Real.pi / 2 by push_cast; ring, ← add_assoc,
      Real.sin_add_pi_div_two, Real.cos_add_pi]
    change |_ - ((-cosQuarter r : ℚ) : ℝ)| ≤ _
    rw [Rat.cast_neg, neg_sub_neg, abs_sub_comm]; exact hc
  · rw [hz he, show ((3 : ℤ) : ℝ) * (Real.pi / 2) = Real.pi + Real.pi / 2 by push_cast; ring, ← add_assoc,
      Real.sin_add_pi_div_two, Real.cos_add_pi]; simp [quarter_axis.1]

/-! ### The clamp -/

theorem clampInt_bounds {lo hi v : Int} (h : lo ≤ hi) : lo ≤ clampInt lo hi v ∧ clampInt lo hi v ≤ hi := by
  unfold clampInt
  omega

theorem clampInt_of_mem {lo hi v : Int} (h1 : lo ≤ v) (h2 : v ≤ hi) : clampInt lo hi v = v := by
  unfold clampInt
  omega

theorem clampUnit_bounds (v : Rat) : -1 ≤ clampUnit v ∧ clampUnit v ≤ 1 := by
  unfold clampUnit
  exact ⟨le_max_left _ _, max_le (by norm_num) (min_le_left _ _)⟩

/-! ### A stick unit -/

/-- A cosine or a sine, scaled by an intensity, has its floor and its ceiling in -127 to 127 (40 R92). -/
theorem scaled_range {v : ℝ} (h0 : -1 ≤ v) (h1 : v ≤ 1) (i : Byte) :
    -127 ≤ ⌊v * 127 * (i.toNat : ℝ) / 255⌋ ∧ ⌈v * 127 * (i.toNat : ℝ) / 255⌉ ≤ 127 := by
  have hi : (i.toNat : ℝ) ≤ 255 := by exact_mod_cast Nat.le_of_lt_succ i.isLt
  have hp : (0 : ℝ) ≤ i.toNat := Nat.cast_nonneg _
  constructor
  · rw [Int.le_floor]; push_cast; nlinarith
  · rw [Int.ceil_le]; push_cast; nlinarith

theorem floor_or_ceil_range {x : ℤ} {r : ℝ} (h : x = ⌊r⌋ ∨ x = ⌈r⌉) (hr : -127 ≤ ⌊r⌋ ∧ ⌈r⌉ ≤ 127) :
    -127 ≤ x ∧ x ≤ 127 := by
  have := Int.floor_le_ceil r
  omega

/-- Both coordinates of an admissible value lie in 1 to 255 (40 R92). -/
theorem polarRounds_range {theta : ℝ} {i : Byte} {xy : Byte × Byte} (h : PolarRounds theta i xy) :
    1 ≤ xy.1.toNat ∧ 1 ≤ xy.2.toNat := by
  have hx := floor_or_ceil_range h.1 (scaled_range (Real.neg_one_le_cos _) (Real.cos_le_one _) i)
  have hy := floor_or_ceil_range h.2 (scaled_range (Real.neg_one_le_sin _) (Real.sin_le_one _) i)
  omega

/-- The byte at an offset of -127 to 127 from the center. -/
theorem toNat_ofInt_center {x : ℤ} (h : -127 ≤ x ∧ x ≤ 127) : ((BitVec.ofInt 8 (128 + x)).toNat : ℤ) = 128 + x := by
  rw [BitVec.toNat_ofInt, Int.toNat_of_nonneg (by omega)]
  omega

/-- For every reading of the angle fields there is a stick unit (40 R84, R89): rounding down, for one. -/
theorem exists_polarUnit (reading : BitVec 12 → ℝ) : ∃ u : PolarUnit, u.angleOfField = reading := by
  refine ⟨{ angleOfField := reading
            polar := fun theta i =>
              (BitVec.ofInt 8 (128 + ⌊Real.cos (theta * Real.pi / 180) * 127 * (i.toNat : ℝ) / 255⌋),
               BitVec.ofInt 8 (128 + -⌊Real.sin (theta * Real.pi / 180) * 127 * (i.toNat : ℝ) / 255⌋))
            rounds := fun theta i => ⟨.inl ?_, .inl ?_⟩
            periodic := fun theta k i => ?_ }, rfl⟩
  · rw [toNat_ofInt_center (floor_or_ceil_range (.inl rfl)
      (scaled_range (Real.neg_one_le_cos _) (Real.cos_le_one _) i))]
    ring
  · have := floor_or_ceil_range (.inl rfl) (scaled_range (Real.neg_one_le_sin (theta * Real.pi / 180))
      (Real.sin_le_one _) i)
    rw [toNat_ofInt_center (by omega)]
    ring
  · have h : (theta + 360 * k) * Real.pi / 180 = theta * Real.pi / 180 + k * (2 * Real.pi) := by ring
    rw [h, Real.cos_add_int_mul_two_pi, Real.sin_add_int_mul_two_pi]

end Sys2Proof.Machine
end

