-- ==== Sys2Proof/Tests/Slice0.lean ====
section
/-! SUPPORT. Small tests, their expected values taken from spec/95_test_vectors.md or worked out by hand from the
named rule: ill-formed instructions, words written out from the encodings, one step of each instruction, and for each
statement with hypotheses a concrete state and operands that meet them. -/

namespace Sys2Proof.Tests

open Sys2Proof Sys2Proof.Machine

/-- The state after reset with RXF empty ("From reset", 95). -/
def ready : State := { State.reset with rxf := [] }

/-- A Core executing the command of a descriptor, at a step. -/
def busyAt (d : Descriptor) (q : Seq) : State := { ready with cmd := some d, busy := true, seq := q }

/-- The next state, where there is one. -/
def nextOf : Out → Option State
  | .next t => some t
  | .fault _ => none
  | .refused _ => none

/-- The neutral payload's bytes (00 R7). -/
def neutralBytes : List Byte := [0x00#8, 0x00#8, 0x08#8, 0x80#8, 0x80#8, 0x80#8, 0x80#8, 0x00#8]

/-! ### Well-formedness: an ill-formed term for each check of 30 R61, R62 -/

theorem test_crc8_too_long : (Instr.crc8 (List.replicate 17 0x00#8)).wellFormedWith (some ⟨16, by decide⟩) = false := by
  decide

theorem test_crc8_nine_bytes : (Instr.crc8 (List.replicate 9 0x00#8)).wellFormed = true := by decide

theorem test_buildPacket_seven_bytes : (Instr.buildPacket (List.replicate 7 0x00#8)).wellFormed = false := by decide

theorem test_parseAck_no_byte : (Instr.parseAck []).wellFormed = false := by decide

theorem test_parseAck_two_bytes : (Instr.parseAck [0x90#8, 0x90#8]).wellFormed = false := by decide

theorem test_sendPacket_nine_bytes : (Instr.sendPacket (List.replicate 9 0x00#8)).wellFormed = false := by decide

theorem test_reserved_ill_formed : Instr.reserved0.wellFormed = false ∧ Instr.reservedD.wellFormed = false ∧
    Instr.reservedE.wellFormed = false ∧ Instr.reservedF.wellFormed = false := by decide

theorem test_teardown_well_formed : Instr.teardown.wellFormed = true := by decide

/-! ### Decoding: OP values of 30 R60, symbols of 30 R65 and R66 -/

theorem test_decode_ops : decodeTableWord 4 0x1 = some (.crc8 []) ∧
    decodeTableWord 4 0x2 = some (.buildPacket (List.replicate 8 0x00#8)) ∧
    decodeTableWord 4 0x3 = some (.parseAck [0x00#8]) ∧
    decodeTableWord 4 0x4 = some (.sendPacket (List.replicate 8 0x00#8)) ∧ decodeTableWord 4 0x5 = some .forceSync ∧
    decodeTableWord 4 0x6 = some .sync ∧ decodeTableWord 4 0x9 = some .teardown ∧
    decodeTableWord 4 0xA = some (.encodeDpad 0x00#8) := by decide

theorem test_decode_ops_of_state : decodeTableWord 4 0x7 = some (.sendCommand 0#64) ∧
    decodeTableWord 4 0xC = some (.decodeControllerState 0#64) ∧
    decodeTableWord 4 0xB = some (.polarToCartesian 0 0x00#8) := by decide

theorem test_decode_tap : decodeTableWord 4 0x8 = some (.tapCommand 0#64 (.exact 0)) := by decide

theorem test_decode_reserved : decodeTableWord 4 0x0 = some .reserved0 ∧ decodeTableWord 4 0xD = some .reservedD ∧
    decodeTableWord 4 0xE = some .reservedE ∧ decodeTableWord 4 0xF = some .reservedF := by decide

theorem test_decode_received : decode (.rx 0x90#8) = .ok .usbAck ∧ decode (.rx 0x91#8) = .ok .updateAck ∧
    decode (.rx 0x92#8) = .ok .updateNack ∧ decode (.rx 0xFF#8) = .ok .syncStartEcho ∧
    decode (.rx 0xCC#8) = .ok .sync1Response ∧ decode (.rx 0x33#8) = .ok .syncOkResponse ∧
    decode (.rx 0x00#8) = .ok .noData := ⟨rfl, rfl, rfl, rfl, rfl, rfl, rfl⟩

theorem test_decode_transmitted : decode (.tx [0xFF#8]) = .ok .syncStart ∧ decode (.tx [0x33#8]) = .ok .sync1 ∧
    decode (.tx [0xCC#8]) = .ok .sync2 := ⟨rfl, rfl, rfl⟩

/-- The packet of 95 section 2.6, and the same bytes with a wrong CRC. -/
theorem test_decode_packet :
    decodePacket [0x01#8, 0x02#8, 0x03#8, 0x04#8, 0x05#8, 0x06#8, 0x07#8, 0x08#8, 0x3E#8] =
      some { cmdHigh := 0x01#8, cmdLow := 0x02#8, dpad := 0x03#8, leftX := 0x04#8, leftY := 0x05#8, rightX := 0x06#8
             rightY := 0x07#8, reserved := 0x08#8 } ∧
    decodePacket [0x01#8, 0x02#8, 0x03#8, 0x04#8, 0x05#8, 0x06#8, 0x07#8, 0x08#8, 0x3F#8] = none := by decide +kernel

theorem test_unnamed_byte_rejected : decode (.rx 0x37#8) = .error (.unnamedByte 0x37#8) := rfl

/-- 30 R76: two-digit bytes. -/
theorem test_hexDigits : hexDigits 2 0x3E = ['3', 'E'] ∧ hexDigits 2 0x07 = ['0', '7'] := by decide

/-! ### Functions -/

/-- 95 section 2.1, spot checks of the byte table. -/
theorem test_crcStep : crcStep 0x00#8 0x01#8 = 0x07#8 ∧ crcStep 0x00#8 0x80#8 = 0x89#8 ∧
    crcStep 0x38#8 0x80#8 = 0x21#8 ∧ crcStep 0x00#8 0xFF#8 = 0xF3#8 := by decide

/-- 95 section 3.2, under the defaults. -/
theorem test_dpad_defaults : encodeDpadWith (Equiv.refl _) (Equiv.refl _) 0x03#8 = 0x01#8 ∧
    encodeDpadWith (Equiv.refl _) (Equiv.refl _) 0x0C#8 = 0x05#8 ∧
    encodeDpadWith (Equiv.refl _) (Equiv.refl _) 0x09#8 = 0x07#8 ∧
    encodeDpadWith (Equiv.refl _) (Equiv.refl _) 0x05#8 = 0x08#8 := by decide

/-- 95 section 3.3: 450 is 90, where the value is fixed; and field 90 read as DEGREES. -/
theorem test_polar_mod360 : polarDegreesWith none polarRefChoice 450 0xFF#8 = (128#8, 1#8) ∧
    polarDegreesWith none polarRefChoice (-45) 0xFF#8 = (218#8, 218#8) ∧
    polarFieldWith none polarRefChoice 90#12 0xFF#8 = (128#8, 1#8) := by decide +kernel

/-- 10 R35: STATREG's reset value. -/
theorem test_statreg_reset : State.reset.statReg = 0x0004#16 := by decide

/-! ### One step of each instruction -/

/-- 95 section 2.4. -/
theorem test_crc8 : (nextOf (exec (.crc8 neutralBytes)
    (busyAt { Descriptor.blank 0x1#4 with data := neutralBytes } (.at .k0)))).map
      (fun t => (t.outCrc, t.result, t.busy)) =
      some (0x54#8, true, false) := by decide +kernel

/-- 95 section 2.6. -/
theorem test_buildPacket :
    (nextOf (exec (.buildPacket [0x01#8, 0x02#8, 0x03#8, 0x04#8, 0x05#8, 0x06#8, 0x07#8, 0x08#8])
      (busyAt { Descriptor.blank 0x2#4 with data := [0x01#8, 0x02#8, 0x03#8, 0x04#8, 0x05#8, 0x06#8, 0x07#8, 0x08#8] }
        (.at .k0)))).map (fun t => (t.outPkt.payload.reserved, t.outPkt.crc, t.pktBuf.crc)) =
      some (0x08#8, 0x3E#8, 0x3E#8) := by decide +kernel

/-- 95 section 4.1: seven DATA bytes. -/
theorem test_buildPacket_bad_operand : (nextOf (exec (.buildPacket (List.replicate 7 0x00#8)) ready)).map
    (fun t => (t.fault, t.faultOp, t.hist)) =
      some (.badOperand, 0x2#4, [.fault .badOperand, .done 0x2#4 false]) := by decide

/-- 95 section 2.7. -/
theorem test_parseAck : (nextOf (exec (.parseAck [0x90#8])
    (busyAt { Descriptor.blank 0x3#4 with data := [0x90#8] } (.at .k0)))).map (fun t => (t.result, t.hist)) =
      some (true, [.done 0x3#4 true]) := by decide

/-- 95 section 2.7. -/
theorem test_parseAck_update_ack : (nextOf (exec (.parseAck [0x91#8])
    (busyAt { Descriptor.blank 0x3#4 with data := [0x91#8] } (.at .k0)))).map State.result = some false := by
  decide

/-- 42 R108, the example. -/
theorem test_sendPacket_writes : (nextOf (exec (.sendPacket neutralBytes)
    (busyAt { Descriptor.blank 0x4#4 with data := neutralBytes } (.call .s0 .sp0)))).map (fun t => (t.tx, t.seq)) =
      some (neutralBytes ++ [0x54#8], .call .s0 .sp1) := by decide +kernel

/-- 42 R109: the oldest byte is read. -/
theorem test_sendPacket_reads_oldest : (nextOf (exec (.sendPacket neutralBytes)
    { busyAt { Descriptor.blank 0x4#4 with data := neutralBytes } (.call .s0 .sp1) with
      rxf := [0x92#8, 0x90#8] })).map (fun t => (t.resp, t.rxf)) = some (0x92#8, [0x90#8]) := by decide

/-- 42 R115: only the drain's last byte counts. -/
theorem test_forceSync_drain : (nextOf (exec .forceSync
    { busyAt (Descriptor.blank 0x5#4) (.call .f0 .fs3) with
      rxf := [0x12#8, 0xFF#8, 0xCC#8], tmpNavail := 2 })).map (fun t => (t.resp, t.rxf, t.seq)) =
      some (0xFF#8, [0xCC#8], .call .f0 .fs4) := by decide

/-- 95 section 1.8. -/
theorem test_forceSync_mismatch : (nextOf (exec .forceSync
    { busyAt (Descriptor.blank 0x5#4) (.call .f0 .fs5) with rxf := [0x90#8] })).map (fun t => (t.resp, t.seq)) =
      some (0x90#8, .call .f0 .fsx) := by decide

/-- 42 R116: an unacknowledged first packet leads to the handshake. -/
theorem test_sync_goes_on : (nextOf (exec .sync
    { busyAt (Descriptor.blank 0x6#4) (.call .y0 .sp2) with resp := 0x92#8 })).map
      (fun t => (t.sync, t.tmpOk1, t.seq)) =
      some (.outOfSync, false, .call .y1 .fs0) := by decide

/-- 42 R116: an acknowledged one completes. -/
theorem test_sync_done : (nextOf (exec .sync
    { busyAt (Descriptor.blank 0x6#4) (.call .y0 .sp2) with resp := 0x90#8 })).map (fun t => (t.statReg, t.hist)) =
      some (0x0016#16, [.done 0x6#4 true]) := by decide

/-- 95 section 1.10: P(4). -/
theorem test_sendCommand : (nextOf (exec (.sendCommand 4#64)
    (busyAt { Descriptor.blank 0x7#4 with state := 4#64 } (.call .c0 .sp0)))).map State.tx =
      some [0x00#8, 0x04#8, 0x08#8, 0x80#8, 0x80#8, 0x80#8, 0x80#8, 0x00#8, 0x21#8] := by decide +kernel

/-- 42 R119: the wait of TAP_GAP. -/
theorem test_tap_gap : (nextOf (exec (.tapCommand 4#64 (.exact (1 / 10)))
    (busyAt { Descriptor.blank 0x8#4 with state := 4#64, hold := .exact (1 / 10) } (.at .t1)))).map
      (fun t => (t.hist, t.seq)) =
      some ([.wait (.exact (1 / 20))], .call .t2 .sp0) := by decide +kernel

/-- 95 section 1.10, the row ACKS(92,90). -/
theorem test_tap_and : (nextOf (exec (.tapCommand 4#64 (.exact (1 / 10)))
    { busyAt { Descriptor.blank 0x8#4 with state := 4#64, hold := .exact (1 / 10) } (.at .t4) with
      sync := .synced, tmpOk := true })).map State.statReg = some 0x0006#16 := by decide +kernel

/-- 42 R121: D1. -/
theorem test_teardown_closes : (nextOf (exec .teardown
    { busyAt (Descriptor.blank 0x9#4) (.at .d1) with tmpOk := true })).map (fun t => (t.link, t.hist)) =
      some (.closed, [.close, .done 0x9#4 true]) := by decide

/-- 42 R122: a second TEARDOWN. -/
theorem test_teardown_again : (nextOf (exec .teardown
    { busyAt (Descriptor.blank 0x9#4) (.call .d0 .sp0) with link := .closed })).map (fun t => (t.tx, t.hist)) =
      some ([], [.done 0x9#4 false]) := by decide

/-- 95 section 1.1. -/
theorem test_encodeDpad : (nextOf (exec (.encodeDpad 0x00#8)
    (busyAt (Descriptor.blank 0xA#4) (.at .e0)))).map (fun t => (t.outDpad, t.result)) = some (0x08#8, true) := by
  decide

/-- 95 section 1.2. -/
theorem test_polarToCartesian : (nextOf (exec (.polarToCartesian (-45) 0x00#8)
    (busyAt { Descriptor.blank 0xB#4 with angle := -45 } (.at .e0)))).map State.outXY = some (128#8, 128#8) := by
  decide

/-- 95 section 3.4: cmdHigh = 20. -/
theorem test_decodeControllerState : (nextOf (exec (.decodeControllerState 0x2000#64)
    (busyAt { Descriptor.blank 0xC#4 with state := 0x2000#64 } (.at .e0)))).map (fun t => payloadBytes t.outPayload) =
      some [0x20#8, 0x00#8, 0x08#8, 0x80#8, 0x80#8, 0x80#8, 0x80#8, 0x00#8] := by decide

/-- 30 R61. -/
theorem test_reserved : (nextOf (exec .reserved0 ready)).map (fun t => (t.fault, t.faultOp)) =
      some (.illegalCommand, 0x0#4) ∧
    (nextOf (exec .reservedD ready)).map (fun t => (t.fault, t.faultOp)) = some (.illegalCommand, 0xD#4) ∧
    (nextOf (exec .reservedE ready)).map (fun t => (t.fault, t.faultOp)) = some (.illegalCommand, 0xE#4) ∧
    (nextOf (exec .reservedF ready)).map (fun t => (t.fault, t.faultOp)) = some (.illegalCommand, 0xF#4) := by
  decide

/-- 30 R77. -/
theorem test_release : (nextOf (exec .release (busyAt (Descriptor.blank 0x7#4) (.call .c0 .sp0)))).map State.tx =
    some (neutralBytes ++ [0x54#8]) := by decide +kernel

/-- 42 R111: FS0. -/
theorem test_syncStart : (nextOf (exec .syncStart (busyAt (Descriptor.blank 0x5#4) (.call .f0 .fs0)))).map
    (fun t => (t.tx, t.sync)) = some (List.replicate 9 0xFF#8, .syncing) := by decide

/-- 30 R65: in no other context. -/
theorem test_syncStart_elsewhere : (nextOf (exec .syncStart ready)).map State.tx = some [] := by decide

/-- 42 R111: FS4. -/
theorem test_sync1 : (nextOf (exec .sync1 (busyAt (Descriptor.blank 0x6#4) (.call .y1 .fs4)))).map
    (fun t => (t.tx, t.seq)) = some ([0x33#8], .call .y1 .fs5) := by decide

/-- 42 R111: FS6. -/
theorem test_sync2 : (nextOf (exec .sync2 (busyAt (Descriptor.blank 0x6#4) (.call .y1 .fs6)))).map
    (fun t => (t.tx, t.seq)) = some ([0xCC#8], .call .y1 .fs7) := by decide

/-- 30 R66. -/
theorem test_arrivals : (nextOf (exec .usbAck ready)).map State.rxf = some [0x90#8] ∧
    (nextOf (exec .updateAck ready)).map State.rxf = some [0x91#8] ∧
    (nextOf (exec .updateNack ready)).map State.rxf = some [0x92#8] ∧
    (nextOf (exec .syncStartEcho ready)).map State.rxf = some [0xFF#8] ∧
    (nextOf (exec .sync1Response ready)).map State.rxf = some [0xCC#8] ∧
    (nextOf (exec .syncOkResponse ready)).map State.rxf = some [0x33#8] := by decide

/-- 20 R48: a byte that arrives while RXF is full is lost. -/
theorem test_arrival_lost : ({ ready with rxf := [0x01#8] }.arriveWith (some ⟨1, by decide⟩) 0x90#8).rxf = [0x01#8] := by
  decide

/-- 20 R47, 42 R109: the timeout of SP1. -/
theorem test_noData : (({ busyAt (Descriptor.blank 0x6#4) (.call .y0 .sp1) with
    resp := 0x90#8, reading := true }).readTimesOutWith (some ⟨1, one_pos⟩)).resp = 0x00#8 := rfl

/-- 30 R58, R74: the port's descriptor is latched as it was presented, its unused fields with it, and leaves the port.
-/
theorem test_latched_as_presented : (nextOf (exec .sync { ready with
    port := some { Descriptor.blank 0x6#4 with flags := 0x0F#8 } })).map (fun t => (t.cmd, t.port)) =
      some (some { Descriptor.blank 0x6#4 with flags := 0x0F#8 }, none) := by decide +kernel

/-- 30 R74: an ABORT is taken first and leaves the descriptor held. -/
theorem test_abort_holds_descriptor : (nextOf (exec .sync { ready with
    abortReq := true, port := some { Descriptor.blank 0x6#4 with flags := 0x0F#8 } })).map
      (fun t => (t.cmdOp, t.port)) = some (0x9#4, some { Descriptor.blank 0x6#4 with flags := 0x0F#8 }) := by
  decide +kernel

/-- 60 R139: a read in progress fails before the ABORT is looked at; blocked, the ABORT ends it; not begun, the ABORT is
taken before it. -/
theorem test_read_before_abort :
    (nextOf (exec .forceSync { busyAt (Descriptor.blank 0x5#4) (.call .f0 .fs5) with
      abortReq := true, reading := true, draw := { fails := true, sent := 0, pollEnd := false } })).map
        (fun t => (t.fault, t.abortReq)) = some (.transportError, true) ∧
    (nextOf (exec .forceSync { busyAt (Descriptor.blank 0x5#4) (.call .f0 .fs5) with
      abortReq := true, reading := true })).map (fun t => (t.hist, t.aborted)) = some ([.done 0x5#4 false], true) ∧
    (nextOf (exec .forceSync { busyAt (Descriptor.blank 0x5#4) (.call .f0 .fs5) with
      abortReq := true, rxf := [0xCC#8] })).map (fun t => (t.rxf, t.aborted)) = some ([0xCC#8], true) := by
  decide +kernel

/-- 60 R150: ACKS(92, none): the first packet owes 0x92, the second nothing, a handshake write nothing. -/
theorem test_acks : ((Premises.free.owes [neutralBytes]).1 = []) ∧
    ({ Premises.free with acks := some [some 0x92#8, none] }.owes
      [neutralBytes ++ [0x54#8], [0x33#8], neutralBytes ++ [0x54#8]]).1 = [0x92#8] := by decide +kernel

/-- 60 R150, 70 R164: under ECHO_SYNC the Core waits for the owed byte; a run whose program is not yet presented has not
ended; its next command is not presented while one executes (30 R76). -/
theorem test_bench : (Bench.start { Premises.free with echoSync := true } [.forceSync] ready).ended = false ∧
    ({ premises := { Premises.free with echoSync := true }, program := [], owed := [0xFF#8], st := ready } :
      Bench).allows (.core Draw.ok) = false ∧
    ({ premises := Premises.free, program := [Descriptor.blank 0x6#4], owed := [],
       st := { ready with busy := true } } : Bench).allows (.present (Descriptor.blank 0x6#4)) = false ∧
    ({ premises := Premises.free, program := [], owed := [], st := ready } : Bench).final = true := by decide +kernel

/-- 42 R107: SP0. -/
theorem test_wirePacket : (nextOf (exec (.wirePacket neutralPayload)
    (busyAt (Descriptor.blank 0x6#4) (.call .y2 .sp0)))).map (fun t => (t.tx, t.pktBuf.crc)) =
      some (neutralBytes ++ [0x54#8], 0x54#8) := by decide +kernel

/-- 60 R137, R138: an ABORT before FS4. -/
theorem test_abort : (nextOf (exec .forceSync
    { busyAt (Descriptor.blank 0x5#4) (.call .f0 .fs4) with abortReq := true })).map
    (fun t => (t.hist, t.aborted, t.tx)) = some ([.done 0x5#4 false], true, []) := by decide

/-- 60 R134: a failed write that sends two bytes. -/
theorem test_transport_error : (nextOf (exec .forceSync
    { busyAt (Descriptor.blank 0x5#4) (.call .f0 .fs0) with
      draw := { fails := true, sent := 2, pollEnd := false } })).map
    (fun t => (t.statReg, t.faultStep, t.tx, t.hist)) =
      some (0x0104#16, .path (.call .f0 .fs0), [0xFF#8, 0xFF#8],
        [.txFail (List.replicate 9 0xFF#8), .fault .transportError, .done 0x5#4 false]) := by decide

/-- The table rows are run by the very next step. -/
theorem test_placed_row : (nextOf (step (State.reset.withFetchWord 4 0xD))).map State.fault = some .illegalCommand ∧
    (nextOf (step (State.reset.withFetchWord 4 0xC))).map State.seq = some (.at .e0) := by decide

/-! ### Witnesses: for each statement with hypotheses, a state and operands that meet all of them -/

/-- A Core executing FORCE_SYNC, at a step of its handshake. -/
def forceSyncAt (c : SubLabel) : State := busyAt (Descriptor.blank 0x5#4) (.call .f0 c)

/-- A Core executing SYNC, at a step of its handshake. -/
def syncAt (c : SubLabel) : State := busyAt (Descriptor.blank 0x6#4) (.call .y1 c)

/-- A draw whose primitive fails. -/
def failing : Draw := { fails := true, sent := 2, pollEnd := false }

/-- The one hypothesis of PARSE_ACK's, POLAR_TO_CARTESIAN's and DECODE_CONTROLLER_STATE's statements. -/
theorem ready_idleReady : ready.idleReady := ⟨rfl, rfl, rfl⟩

theorem ready_outInv : OutInv ready := by unfold OutInv; decide +kernel

theorem witness_DecodeEncodeAgree : Instr.sync ≠ .release := by decide

theorem witness_CrcLinear : ([0x01#8, 0x02#8] : List Byte).length = ([0xFF#8, 0x80#8] : List Byte).length := rfl

/-- The byte list read as a polynomial. -/
theorem witness_CrcPolynomialRemainder : ∃ poly : List Byte → Polynomial (ZMod 2),
    poly = (fun l => l.foldl (fun acc b => acc * Polynomial.X ^ 8 +
      ∑ k ∈ Finset.range 8, if b.getLsbD k then Polynomial.X ^ k else 0) 0) := ⟨_, rfl⟩

/-- The length at the edge of what every CRC_MAX_LEN accepts. -/
theorem witness_Crc8Result : ready.idleReady ∧
    crcLenOk Config.crcMaxLen (List.replicate 9 0xFF#8).length = true := ⟨ready_idleReady, rfl⟩

theorem witness_BuildPacketResult : ready.idleReady ∧ payloadOf neutralBytes = some neutralPayload :=
  ⟨ready_idleReady, rfl⟩

theorem witness_EncodeDpadResult : (0x00#8 = 0x00#8) ∧
    (∃ flags d, flags = dirFlags Config.dpadBits d) ∧
    ((0x10#8 ≠ 0x00#8) ∧ (0x10#8).extractLsb' 4 4 ≠ 0#4) := ⟨rfl, ⟨_, .upLeft, rfl⟩, by decide⟩

/-- The first angle of a turn, and the last of the whole degrees. -/
theorem witness_Polar : (0 : Rat) ≤ 0 ∧ (0 : Rat) < 360 ∧ (359 : Rat) < 360 := by decide +kernel

/-- A POLAR within R84 exists on the real angles, and with it a stick unit for every reading of the fields, one with
irrational angles among them. -/
theorem witness_PolarUnit : ∃ u : PolarUnit, u.angleOfField = fun f => (f.toNat : ℝ) * Real.sqrt 2 :=
  exists_polarUnit _

/-- Both intensities 0 under angle fields that are all ones. -/
theorem witness_NeutralDecodes : (0xFFF00FFF00000000#64).extractLsb' 0 16 = 0#16 ∧
    encodeDpad ((0xFFF00FFF00000000#64).extractLsb' 16 8) = 0x08#8 ∧
    (0xFFF00FFF00000000#64).extractLsb' 24 8 = 0#8 ∧ (0xFFF00FFF00000000#64).extractLsb' 44 8 = 0#8 := by
  decide +kernel

/-- A command held by a busy Core, and an idle Core for each outcome of acceptance in turn: an ABORT, the fault gate, a
reserved OP, a closed link, bad operands at either side of the length, and the command's beginning. -/
theorem witness_AcceptanceInOrder :
    (encodeCommand .sync = some (Descriptor.blank 0x6#4) ∧ (forceSyncAt .fs2).busy = true ∧
      (forceSyncAt .fs2).cmd.map decodeCommand ≠ some Instr.sync.core) ∧
    (ready.busy = false ∧ ({ ready with abortReq := true } : State).abortReq = true) ∧
    (({ ready with fault := .linkClosed } : State).fault ≠ .none ∧ (0x6#4 : OpCode) ≠ 0x9#4) ∧
    (encodeCommand .reservedD = some (Descriptor.blank 0xD#4)) ∧
    (0x4#4 ≤ (0x8#4 : OpCode) ∧ (0x8#4 : OpCode) ≤ 0x8#4 ∧ ({ ready with link := .closed } : State).link = .closed) ∧
    ((List.replicate 7 0x00#8).length ≠ 8 ∧ (List.replicate 9 0x00#8).length ≠ 8 ∧ ([] : List Byte).length ≠ 1) ∧
    ready.abortReq = false ∧ ready.fault = .none := by decide +kernel

theorem witness_ReservedOpsFault : ready.idleReady ∧ (Instr.reservedF, 0xF#4) ∈
    [(Instr.reserved0, 0x0#4), (.reservedD, 0xD#4), (.reservedE, 0xE#4), (.reservedF, 0xF#4)] :=
  ⟨ready_idleReady, by simp⟩

/-- The same state meets the hypotheses of SendCommandRun, ReleaseRun, SyncOptimistic and TapCommandRun. -/
theorem witness_SendPacketRun : ({ ready with rxf := [0x90#8, 0x91#8] } : State).linkReady ∧
    payloadOf neutralBytes = some neutralPayload ∧
    ({ ready with rxf := [0x90#8, 0x91#8] } : State).rxf = 0x90#8 :: [0x91#8] := ⟨⟨⟨rfl, rfl, rfl⟩, rfl, rfl⟩, rfl, rfl⟩

theorem witness_BlockedReadWaits : SeqInv (forceSyncAt .fs5) ∧ (forceSyncAt .fs5).busy = true ∧
    (forceSyncAt .fs5).cmd.map decodeCommand = some .forceSync ∧ (forceSyncAt .fs5).abortDue = false ∧
    (forceSyncAt .fs5).draw.fails = false ∧ (forceSyncAt .fs5).seq = .call .f0 .fs5 ∧
    (forceSyncAt .fs5).readNeed .fs5 = some 1 ∧ (forceSyncAt .fs5).rxf.length < 1 :=
  ⟨⟨_, rfl, by decide, by decide⟩, rfl, rfl, by decide, rfl, rfl, rfl, by decide⟩

/-- A blocked read; and each command that sends, at its verdict, after a timeout. -/
theorem witness_TimedOutRead : ((forceSyncAt .fs7).busy = true ∧
    ({ forceSyncAt .fs7 with reading := true } : State).reading = true ∧
    (forceSyncAt .fs7).rxf = [] ∧ (forceSyncAt .fs7).seq = .call .f0 .fs7 ∧
    (SubLabel.fs7, SubLabel.fsx) ∈ [(SubLabel.sp1, SubLabel.sp2), (.fs5, .fsx), (.fs7, .fsx)]) ∧
    ready.blockedRead = none ∧
    ∀ x ∈ [({ Descriptor.blank 0x4#4 with data := neutralBytes }, Label.s0, Instr.sendPacket neutralBytes),
        (Descriptor.blank 0x7#4, .c0, .sendCommand 0#64), (Descriptor.blank 0x6#4, .y0, .sync),
        (Descriptor.blank 0x6#4, .y2, .sync), (Descriptor.blank 0x8#4, .t0, .tapCommand 0#64 (.exact 0)),
        (Descriptor.blank 0x8#4, .t2, .tapCommand 0#64 (.exact 0)), (Descriptor.blank 0x9#4, .d0, .teardown)],
      (busyAt x.1 (.call x.2.1 .sp2)).cmd.map decodeCommand = some x.2.2 ∧
      (busyAt x.1 (.call x.2.1 .sp2)).abortDue = false ∧
      (false, SyncStatus.outOfSync) = (if (busyAt x.1 (.call x.2.1 .sp2)).resp = 0x90#8 then (true, .synced)
        else (false, .outOfSync)) := by decide +kernel

theorem witness_ForceSyncRun : ready.linkReady ∧ ready.rxf = [] := ⟨⟨ready_idleReady, rfl, rfl⟩, rfl⟩

/-- FORCE_SYNC's drain with two bytes, both counted; its reads, and SYNC's, with one. -/
theorem witness_HandshakeReads :
    (({ forceSyncAt .fs3 with rxf := [0x12#8, 0xFF#8], tmpNavail := 2 } : State).busy = true ∧
      ({ forceSyncAt .fs3 with rxf := [0x12#8, 0xFF#8], tmpNavail := 2 } : State).cmd.map decodeCommand =
        some .forceSync ∧
      ({ forceSyncAt .fs3 with rxf := [0x12#8, 0xFF#8], tmpNavail := 2 } : State).abortDue = false ∧
      DrainInv { forceSyncAt .fs3 with rxf := [0x12#8, 0xFF#8], tmpNavail := 2 }) ∧
    ((syncAt .fs5).busy = true ∧ (syncAt .fs5).cmd.map decodeCommand = some .sync ∧ (syncAt .fs5).abortDue = false ∧
      (syncAt .fs5).draw.fails = false ∧ (syncAt .fs5).seq = .call .y1 .fs5 ∧
      ({ syncAt .fs5 with rxf := [0xCC#8] } : State).rxf = 0xCC#8 :: []) ∧
    (syncAt .fs7).seq = .call .y1 .fs7 ∧ ({ syncAt .fs7 with rxf := [0x33#8] } : State).rxf = 0x33#8 :: [] :=
  ⟨⟨rfl, rfl, by decide, fun _ _ => by decide⟩, ⟨rfl, rfl, by decide, rfl, rfl, rfl⟩, rfl, rfl⟩

theorem witness_HandshakeVerdict : (forceSyncAt .fs8).busy = true ∧ (forceSyncAt .fs8).abortReq = false ∧
    (forceSyncAt .fs8).cmd.map decodeCommand = some .forceSync ∧ (forceSyncAt .fs8).seq = .call .f0 .fs8 ∧
    (forceSyncAt .fsx).seq = .call .f0 .fsx ∧ (syncAt .fs8).cmd.map decodeCommand = some .sync ∧
    (syncAt .fs8).seq = .call .y1 .fs8 ∧ (syncAt .fsx).seq = .call .y1 .fsx := ⟨rfl, rfl, rfl, rfl, rfl, rfl, rfl, rfl⟩

theorem witness_PollVisit : (forceSyncAt .fs1).busy = true ∧
    (forceSyncAt .fs1).cmd.map decodeCommand = some .forceSync ∧ (forceSyncAt .fs1).abortDue = false ∧
    (forceSyncAt .fs1).draw.fails = false ∧ (forceSyncAt .fs1).seq = .call .f0 .fs1 ∧
    (syncAt .fs2).cmd.map decodeCommand = some .sync ∧ (syncAt .fs2).seq = .call .y1 .fs2 :=
  ⟨rfl, rfl, by decide, rfl, rfl, rfl, rfl⟩

theorem witness_PollEnds : (forceSyncAt .fs1).seq = .call .f0 .fs1 ∧ (forceSyncAt .fs1).tmpVisit = 0 ∧
    (forceSyncAt .fs1).rxf = [] ∧ (forceSyncAt .fs1).draw.fails = false := ⟨rfl, rfl, rfl, rfl⟩

theorem witness_SyncThroughHandshake : ({ ready with rxf := [0x92#8] } : State).linkReady ∧ (0x92#8 : Byte) ≠ 0x90#8 ∧
    ({ ready with rxf := [0x92#8] } : State).rxf = [0x92#8] ∧
    (Instr.usbAck, 0x90#8) ∈ [(Instr.usbAck, 0x90#8), (.updateAck, 0x91#8), (.updateNack, 0x92#8)] :=
  ⟨⟨⟨rfl, rfl, rfl⟩, rfl, rfl⟩, by decide, rfl, by simp⟩

/-- TAP_COMMAND's own steps, with a HOLD below zero. -/
theorem witness_TapCommandRun : ∀ q ∈ [Seq.at .t1, .at .t3, .at .t4],
    (busyAt { Descriptor.blank 0x8#4 with state := 4#64, hold := .exact (-1) } q).busy = true ∧
    (busyAt { Descriptor.blank 0x8#4 with state := 4#64, hold := .exact (-1) } q).abortReq = false ∧
    (busyAt { Descriptor.blank 0x8#4 with state := 4#64, hold := .exact (-1) } q).cmd.map decodeCommand =
      some (.tapCommand 4#64 (.exact (-1))) ∧
    (busyAt { Descriptor.blank 0x8#4 with state := 4#64, hold := .exact (-1) } q).seq = q := fun _ _ => ⟨rfl, rfl, rfl, rfl⟩

theorem witness_TeardownRun : (({ ready with fault := .transportError, rxf := [0x00#8] } : State).busy = false ∧
    ({ ready with fault := .transportError, rxf := [0x00#8] } : State).abortReq = false ∧
    ({ ready with fault := .transportError, rxf := [0x00#8] } : State).link = .opened ∧
    ({ ready with fault := .transportError, rxf := [0x00#8] } : State).draw.fails = false) ∧
    ({ ready with link := .closed } : State).busy = false ∧ ({ ready with link := .closed } : State).abortReq = false :=
  ⟨⟨rfl, rfl, rfl, rfl⟩, rfl, rfl⟩

/-- Each label at which a primitive can fail, in FORCE_SYNC and in SYNC. -/
theorem witness_FailedPrimitiveEndsCommand :
    (∀ c ∈ [SubLabel.fs0, .fs1, .fs3, .fs4, .fs5, .fs6, .fs7], SeqInv { forceSyncAt c with draw := failing } ∧
      ({ forceSyncAt c with draw := failing } : State).abortDue = false ∧ failing.fails = true ∧ Label.f0 ≠ .d0) ∧
    (∀ c ∈ [SubLabel.sp0, .sp1], SeqInv { busyAt (Descriptor.blank 0x6#4) (.call .y2 c) with draw := failing }) ∧
    ({ forceSyncAt .fs5 with draw := failing, abortReq := true, reading := true } : State).reading = true ∧
    SubLabel.fs5 ∈ [SubLabel.sp1, .fs3, .fs5, .fs7] := by
  refine ⟨fun c hc => ⟨⟨_, rfl, ?_, by decide⟩, rfl, rfl, by decide⟩, fun c hc => ⟨_, rfl, ?_, by decide⟩, rfl, by decide⟩
  · revert c; decide
  · revert c; decide

theorem witness_TeardownClosesAfterFailure : ∀ c ∈ [SubLabel.sp0, .sp1],
    ({ busyAt (Descriptor.blank 0x9#4) (.call .d0 c) with draw := failing } : State).busy = true ∧
    ({ busyAt (Descriptor.blank 0x9#4) (.call .d0 c) with draw := failing } : State).cmd.map decodeCommand =
      some .teardown ∧
    ({ busyAt (Descriptor.blank 0x9#4) (.call .d0 c) with draw := failing } : State).link = .opened ∧
    failing.fails = true := fun _ _ => ⟨rfl, rfl, rfl, rfl⟩

theorem witness_AbortTaken : (({ forceSyncAt .fs4 with abortReq := true } : State).busy = true ∧
    (forceSyncAt .fs4).cmd.map decodeCommand = some .forceSync ∧ Instr.forceSync ≠ .teardown) ∧
    (({ forceSyncAt .fs5 with abortReq := true, reading := true } : State).readNeed .fs5 = some 1 ∧
      (forceSyncAt .fs5).rxf.length < 1 ∧ (forceSyncAt .fs5).draw.fails = false) ∧
    (seqFits 0x6#4 (.call .y0 .sp1) = true ∧ operandsOk (Descriptor.blank 0x6#4) = true) ∧
    (ready.busy = false ∧ ready.port = none) ∧
    (nextOf (exec .teardown { busyAt (Descriptor.blank 0x9#4) (.at .d1) with abortReq := true })).map State.abortReq =
      some false := by decide +kernel

theorem witness_TransmittedSymbols : ((forceSyncAt .fs0).busy = true ∧ (forceSyncAt .fs0).abortDue = false ∧
    (forceSyncAt .fs0).draw.fails = false ∧ callsSync .f0 = true ∧ callsSync .y1 = true) ∧
    (syncAt .fs4).seq = .call .y1 .fs4 ∧ (syncAt .fs6).seq = .call .y1 .fs6 ∧
    (forceSyncAt .fs0).cmd.map decodeCommand = some .forceSync ∧ (syncAt .fs0).cmd.map decodeCommand = some .sync ∧
    (busyAt (Descriptor.blank 0x6#4) (.call .y0 .sp0)).sendPayload = some neutralPayload ∧
    seqFits 0x6#4 (.call .y0 .sp0) = true := by decide

/-- States whose step answers a next state: the hypothesis of TransmitOnlyAtWriteSteps, with bytes sent; of
ReceiveFifoOrder, with a byte that arrives; of SyncTransitions, with a transition; of HistoryNeverRead and
NothingTestsSync. -/
theorem witness_step : (nextOf (step { forceSyncAt .fs0 with sched := [.core Draw.ok] })).map State.tx =
      some (List.replicate 9 0xFF#8) ∧
    (nextOf (step { ready with sched := [.arrive 0x37#8] })).map State.rxf = some [0x37#8] ∧
    (nextOf (step { syncAt .fs8 with sched := [.core Draw.ok] })).map State.sync = some .synced := by decide +kernel

theorem witness_StepRunsInstruction :
    (({ forceSyncAt .fs0 with sched := [.core Draw.ok] } : State).sched = .core Draw.ok :: [] ∧
      (forceSyncAt .fs0).busy = true ∧ (forceSyncAt .fs0).cmd = some (Descriptor.blank 0x5#4)) ∧
    (ready.busy = false ∧ ({ ready with port := some (Descriptor.blank 0x1#4) } : State).port =
      some (Descriptor.blank 0x1#4)) ∧
    ((0x90#8 : Byte) ≠ 0x00#8 ∧ decode (.rx 0x90#8) = .ok .usbAck) ∧ 15 < 16 :=
  ⟨⟨rfl, rfl, rfl⟩, ⟨rfl, rfl⟩, ⟨by decide, rfl⟩, by decide⟩

/-- An OUT register changes in a step that is no reset; and the premises of StickyUntilReset. -/
theorem witness_OutRegistersChange :
    (nextOf (step { busyAt { Descriptor.blank 0x1#4 with data := [0x01#8] } (.at .k0) with
      sched := [.core Draw.ok] })).map State.outCrc = some 0x07#8 ∧
    ({ ready with sched := [.core Draw.ok] } : State).nextMove.1 ≠ .reset ∧
    ({ ready with fault := .badOperand, link := .closed, aborted := true } : State).fault ≠ .none := by decide +kernel

/-- A state after TEARDOWN has closed the link, with the invariant. -/
theorem witness_ClosedLinkIsSilent :
    Inv { ready with link := .closed, hist := [.close, .done 0x9#4 false], sched := [.core Draw.ok] } ∧
    (nextOf (step { ready with link := .closed, hist := [.close, .done 0x9#4 false], sched := [.core Draw.ok] })).isSome :=
  ⟨{ seq := rfl
     fault := ⟨fun _ => ⟨rfl, rfl⟩, fun h => absurd rfl h⟩
     sync := ⟨nofun, fun h => nomatch h.1⟩
     link := fun _ h => nomatch h
     close := rfl
     out := ready_outInv
     rx := fun _ _ => Nat.zero_le _
     drain := nofun
     read := nofun
     write := by intro l h; simp at h
     abort := nofun }, by decide +kernel⟩

/-- A Core inside the handshake, Syncing, with the flush sent, has the invariant, and a step from it answers a next
state. -/
theorem witness_InvariantKept :
    Inv { forceSyncAt .fs3 with sync := .syncing, rxf := [0xFF#8], tmpNavail := 1
                                hist := [.tx (List.replicate 9 0xFF#8), .avail 1], sched := [.core Draw.ok] } ∧
    (nextOf (step { forceSyncAt .fs3 with sync := .syncing, rxf := [0xFF#8], tmpNavail := 1
                                          hist := [.tx (List.replicate 9 0xFF#8), .avail 1]
                                          sched := [.core Draw.ok] })).map State.seq = some (.call .f0 .fs4) :=
  ⟨{ seq := ⟨_, rfl, by decide, by decide⟩
     fault := ⟨fun _ => ⟨rfl, rfl⟩, fun h => absurd rfl h⟩
     sync := ⟨fun _ => ⟨rfl, .f0, .fs3, rfl, rfl, by decide⟩, fun _ => rfl⟩
     link := nofun
     close := rfl
     out := ready_outInv
     rx := fun cap _ => cap.2
     drain := fun _ _ => by decide
     read := nofun
     write := by
       intro l h
       simp only [List.mem_cons, Event.tx.injEq, List.not_mem_nil, or_false, reduceCtorEq, or_self] at h
       exact .inl h
     abort := nofun }, by decide +kernel⟩

theorem witness_EchoSyncBench : ready.idleReady ∧ ready.link = .opened ∧ ready.rxf = [] ∧ ready.port = none ∧
    (Descriptor.blank 0x5#4).op = 0x5#4 ∧ Draw.ok.fails = false ∧
    (Bench.step (.present (Descriptor.blank 0x5#4))
      { premises := Premises.free, program := [Descriptor.blank 0x5#4], owed := [], st := ready }).isSome :=
   ⟨ready_idleReady, rfl, rfl, rfl, rfl, rfl, by decide +kernel⟩

/-! ### POLAR -/

/-- 95 section 3.3, the column REF. -/
theorem test_polar_ref : polarWith polarRefChoice 315 0xFF#8 = (218#8, 218#8) ∧
    polarWith polarRefChoice 30 0xFF#8 = (238#8, 64#8) ∧ polarWith polarRefChoice 10 200#8 = (226#8, 111#8) ∧
    polarWith polarRefChoice 45 128#8 = (173#8, 83#8) := by decide +kernel

/-- 95 section 3.3, the column of P2 sets: at 45 degrees the choice may take either neighbour and no other value. -/
theorem test_polar_p2 : polarWith (fun _ _ => (-500, -500)) 45 0xFF#8 = (217#8, 39#8) ∧
    polarWith (fun _ _ => (500, 500)) 45 0xFF#8 = (218#8, 38#8) := by decide +kernel

end Sys2Proof.Tests
end

/-! ## One step of the machine (00_scope) -/

namespace Sys2Proof.Machine

variable {s : State}

/-! ### Which instruction the next step runs (30_encoding R74, R79) -/

/-- The schedule's head is the next move, made in the state that has the rest of the schedule left (log 6). -/
theorem step_of_sched {m : Move} {rest : List Move} (h : s.sched = m :: rest) :
    step s = runMove m { s with sched := rest } := by
  unfold step State.nextMove
  rw [h]

/-- A move that fetches an instruction is that instruction's execution. -/
theorem runMove_of_fetchInstr {m : Move} {i : Instr} {t : State} (h : fetchInstr m s = some (i, t)) :
    runMove m s = exec i t := by
  unfold runMove
  rw [h]

theorem step_core_busy {d : Draw} {c : Descriptor} {rest : List Move} (h : s.sched = .core d :: rest)
    (hb : s.busy = true) (hc : s.cmd = some c) :
    step s = exec (decodeCommand c) { s with sched := rest, draw := d } :=
  (step_of_sched h).trans (runMove_of_fetchInstr (fetchInstr_core_busy hb hc))

theorem step_core_idle {d : Draw} {c : Descriptor} {rest : List Move} (h : s.sched = .core d :: rest)
    (hb : s.busy = false) (hp : s.port = some c) :
    step s = exec (decodeCommand c) { s with sched := rest, draw := d } :=
  (step_of_sched h).trans (runMove_of_fetchInstr (fetchInstr_core_idle hb hp))

/-- A byte that the receive side decodes, 0x00 apart, arrives as the instruction it decodes to (30 R66). -/
theorem arrivalInstr_of_decode {b : Byte} {i : Instr} (hb : b ≠ 0x00#8) (h : decode (.rx b) = .ok i) :
    arrivalInstr b = some i := by
  have hrx : decodeRx b = some i := by
    unfold decode at h
    dsimp only at h
    split at h
    · cases h; assumption
    · cases h
  unfold arrivalInstr
  rw [if_neg (show b ≠ byteNoData from hb), hrx]

theorem fetchInstr_arrive {b : Byte} {i : Instr} (h : arrivalInstr b = some i) :
    fetchInstr (.arrive b) s = some (i, s) := by
  unfold fetchInstr
  dsimp only
  rw [h]
  rfl

theorem step_arrive {b : Byte} {i : Instr} {rest : List Move} (h : s.sched = .arrive b :: rest) (hb : b ≠ 0x00#8)
    (hi : decode (.rx b) = .ok i) : step s = exec i { s with sched := rest } :=
  (step_of_sched h).trans (runMove_of_fetchInstr (fetchInstr_arrive (arrivalInstr_of_decode hb hi)))

theorem step_timeout {rest : List Move} (h : s.sched = .timeout :: rest) :
    step s = exec .noData { s with sched := rest } :=
  (step_of_sched h).trans (runMove_of_fetchInstr rfl)

/-! ### The command rows of the opcode table (log 7, 21) -/

/-- The descriptor the table's row of `op` is read as. -/
def tableDescriptor (op : OpCode) : Descriptor := { Descriptor.blank op with data := zeroData op }

theorem encodedOfTableWord_command {w : Nat} (hw : w < 16) :
    encodedOfTableWord 4 w = some (.cmd (tableDescriptor (BitVec.ofNat 4 w))) := by
  unfold encodedOfTableWord
  rw [if_pos (by decide), if_pos hw]
  rfl

theorem decodeTableWord_command {w : Nat} (hw : w < 16) :
    decodeTableWord 4 w = some (decodeCommand (tableDescriptor (BitVec.ofNat 4 w))) := by
  unfold decodeTableWord
  rw [encodedOfTableWord_command hw]
  rfl

/-- A row's descriptor is the one the assembler emits for the row's command: the fields that command does not use are
zero or empty in both (30 R76). -/
theorem encodeCommand_decodeCommand_tableDescriptor :
    ∀ op : OpCode, encodeCommand (decodeCommand (tableDescriptor op)) = some (tableDescriptor op) := by
  decide

/-- A descriptor placed for the host is on an idle Core's port with the Core to move, so the next step runs it. -/
theorem step_place_cmd (d : Descriptor) (s : State) :
    step (s.place (.cmd d)) = exec (decodeCommand d) { s with
      busy := false, seq := .idle, reading := false, abortReq := false, draw := Draw.ok, port := some d } :=
  step_core_idle (s := s.place (.cmd d)) rfl rfl rfl

theorem step_withFetchWord_command {w : Nat} (hw : w < 16) (s : State) :
    step (s.withFetchWord 4 w) = exec (decodeCommand (tableDescriptor (BitVec.ofNat 4 w))) { s with
      busy := false, seq := .idle, reading := false, abortReq := false, draw := Draw.ok
      port := some (tableDescriptor (BitVec.ofNat 4 w)) } := by
  unfold State.withFetchWord
  rw [encodedOfTableWord_command hw]
  exact step_place_cmd _ s

/-- Settles O48, one lemma for each kind of move that runs an instruction and one for a placed command row. -/
theorem stepRunsInstruction : Obligations.StepRunsInstruction := by
  unfold Obligations.StepRunsInstruction
  refine ⟨fun s d c rest h => ⟨step_core_busy h, step_core_idle h⟩, fun s b i rest h hb hi => step_arrive h hb hi,
    fun s rest h => step_timeout h, fun s w hw => ?_⟩
  exact ⟨_, _, decodeTableWord_command hw, encodeCommand_decodeCommand_tableDescriptor _,
    step_withFetchWord_command hw s⟩

end Sys2Proof.Machine

/-! ## The invariant (10_state, 60_exceptions) -/

namespace Sys2Proof.Machine

variable {s t u : State} {q : Seq}

/-! ### What SEQ says of the step -/

/-- SEQ names a step of FORCE_SYNC_SEQ after FS0, where STATUS.SYNC is Syncing (42 R106). -/
def inHandshake : Seq → Bool
  | .call _ c => isSyncLabel c && c != .fs0
  | _ => false

/-- SEQ names a read of one byte, the only reads that block (20 R53). -/
def readsByte : Seq → Bool
  | .call _ .sp1 | .call _ .fs5 | .call _ .fs7 => true
  | _ => false

/-- SEQ names a step of TEARDOWN. -/
def isTeardownSeq : Seq → Bool
  | .call .d0 _ | .at .d1 => true
  | _ => false

/-- SEQ names a step of a command that uses the transport (30 R60). -/
def isTransportSeq : Seq → Bool
  | .idle | .at .k0 | .at .e0 => false
  | _ => true

/-- A step's sequence is one of the command's whole, so a step of it leads to any other (42 R107, R111). -/
theorem seqFits_call {op : OpCode} {o : Label} {c c' : SubLabel} (hfit : seqFits op (.call o c) = true)
    (h : isSendLabel c' = isSendLabel c) : seqFits op (.call o c') = true := by
  unfold seqFits isSyncLabel at hfit ⊢
  split at hfit <;> simp_all

/-- Only TEARDOWN has TEARDOWN's labels, and only the transport commands the labels of the link sequencer (10 R30). -/
theorem seqFits_labels {op : OpCode} {q : Seq} (h : seqFits op q = true) :
    isTeardownSeq q = decide (op = opTeardown) ∧ isTransportSeq q = opUsesTransport op := by
  rw [opUsesTransport]
  simp only [← BitVec.toNat_inj, beq_eq_decide, opTeardown]
  unfold seqFits at h
  split at h
  case h_20 => cases h
  all_goals simp_all [isTeardownSeq, isTransportSeq]

theorem seqFits_d1 {op : OpCode} {q : Seq} (h : seqFits op q = true) (hq : isTeardownSeq q = true) :
    seqFits op (.at .d1) = true := by
  have hop : op = opTeardown := by simpa [hq] using (seqFits_labels h).1
  rw [hop]; rfl

theorem seqFits_firstStep {op : OpCode} (h : opReserved op = false) : seqFits op (firstStep op) = true := by
  revert op; decide

theorem inHandshake_firstStep (op : OpCode) : inHandshake (firstStep op) = false := by revert op; decide

/-! ### What the invariant says of an executing command -/

theorem Inv.syncing_iff (hi : Inv s) (hb : s.busy = true) (hq : s.seq = q) :
    s.sync = .syncing ↔ inHandshake q = true := by
  subst hq
  refine Iff.trans hi.sync ?_
  cases s.seq <;> simp [hb, inHandshake]

theorem Inv.syncing_iff_of_next {q' : Seq} (hi : Inv s) (hb : s.busy = true) (hq : s.seq = q)
    (h : inHandshake q' = inHandshake q) : s.sync = .syncing ↔ inHandshake q' = true := by
  rw [h]; exact hi.syncing_iff hb hq

theorem Inv.sync_ne (hi : Inv s) (hb : s.busy = true) (hq : s.seq = q) (hs : inHandshake q = false) :
    s.sync ≠ .syncing := by
  rw [Ne, hi.syncing_iff hb hq, hs]; decide

theorem Inv.not_reading (hi : Inv s) (hq : s.seq = q) (hr : readsByte q = false) : s.reading = false := by
  cases h : s.reading
  · rfl
  · obtain ⟨-, o, c, hq', rfl | rfl | rfl⟩ := hi.read h <;> rw [← hq, hq'] at hr <;> cases hr

theorem Inv.seqFits_cmdOp (hi : Inv s) (hb : s.busy = true) : seqFits s.cmdOp s.seq = true := by
  have h := hi.seq
  unfold SeqInv at h
  rw [if_pos hb] at h
  obtain ⟨d, hd, hfit, -⟩ := h
  unfold State.cmdOp
  rw [hd]
  exact hfit

theorem Inv.inTeardown_eq (hi : Inv s) (hb : s.busy = true) : s.inTeardown = isTeardownSeq s.seq := by
  rw [(seqFits_labels (hi.seqFits_cmdOp hb)).1, State.inTeardown, hb, Bool.true_and, beq_eq_decide]

/-- At a transport step the link is open, but for the first step of a TEARDOWN (42 R122). -/
theorem Inv.link_opened (hi : Inv s) (hb : s.busy = true) (hq : s.seq = q) (ht : isTransportSeq q = true)
    (h0 : q = .call .d0 .sp0 → s.link ≠ .closed) : s.link = .opened := by
  subst hq
  cases hl : s.link with
  | opened => rfl
  | closed =>
    rw [(seqFits_labels (hi.seqFits_cmdOp hb)).2] at ht
    exact absurd hl (h0 (hi.link hl hb ht))

/-- Outside TEARDOWN an ABORT once taken has closed the link (60 R138). -/
theorem Inv.closed_of_aborted (hi : Inv s) (ht : s.inTeardown = false) (ha : s.aborted = true) : s.link = .closed :=
  (hi.abort ha).resolve_right (by rw [ht]; decide)

theorem Inv.idle (hi : Inv s) (hb : s.busy = false) :
    s.seq = .idle ∧ s.sync ≠ .syncing ∧ s.reading = false ∧ s.inTeardown = false := by
  refine ⟨by simpa [SeqInv, hb] using hi.seq, ?_, ?_, by rw [State.inTeardown, hb]; rfl⟩
  · exact fun h => absurd (hb.symm.trans (hi.sync.mp h).1) (by decide)
  · cases hr : s.reading
    · rfl
    · rw [(hi.read hr).1] at hb; cases hb

/-! ### The part of the invariant that does not speak of the executing command -/

/-- A list of bytes that some write step writes (30 R65). -/
def IsWrite (l : List Byte) : Prop :=
  l = flushBytes ∨ l = [byteSync1] ∨ l = [byteSync2] ∨ ∃ p, l = packetBytes (buildPacket p)

/-- The clauses of the invariant that do not depend on BUSY, SEQ and CMD. States that agree in the fields these speak of
have it by the same proof. -/
def DataInv (s : State) : Prop :=
  (s.fault = .none → s.faultOp = 0x0#4 ∧ s.faultStep = .accept) ∧ CloseInv s ∧ OutInv s ∧ RxInv s ∧ WriteInv s

theorem Inv.data (hi : Inv s) : DataInv s := ⟨hi.fault.1, hi.close, hi.out, hi.rx, hi.write⟩

/-- An event that is no CLOSE and, where it is a write, one of a write step. -/
def PlainEvent (e : Event) : Prop := e ≠ .close ∧ ∀ l, e = .tx l ∨ e = .txFail l → IsWrite l

theorem DataInv.append (hd : DataInv s) {ev : List Event} (he : ∀ e ∈ ev, PlainEvent e) :
    DataInv { s with hist := s.hist ++ ev } := by
  obtain ⟨hfault, hclose, hout, hrx, hwrite⟩ := hd
  refine ⟨hfault, ?_, hout, hrx, fun l hl => ?_⟩
  · have h0 : ev.count .close = 0 := List.count_eq_zero.mpr fun h => (he _ h).1 rfl
    show (s.hist ++ ev).count .close = _
    rw [List.count_append, h0]
    exact hclose
  · simp only [List.mem_append] at hl
    rcases hl with (h | h) | (h | h)
    · exact hwrite l (.inl h)
    · exact (he _ h).2 l (.inl rfl)
    · exact hwrite l (.inr h)
    · exact (he _ h).2 l (.inr rfl)

theorem DataInv.log (hd : DataInv s) {e : Event} (he : PlainEvent e) : DataInv (s.log e) :=
  hd.append fun _ h => List.mem_singleton.mp h ▸ he

theorem plainEvent_write {l : List Byte} (hl : IsWrite l) : PlainEvent (.tx l) ∧ PlainEvent (.txFail l) := by
  constructor <;> refine ⟨nofun, fun l' h => ?_⟩ <;> rcases h with h | h <;> cases h <;> exact hl

theorem DataInv.recordFault (hd : DataInv s) {c : FaultCode} (hc : c ≠ .none) (q : FaultStep) :
    DataInv (s.recordFault c q) := by
  have h := hd.log (e := .fault c) ⟨nofun, nofun⟩
  unfold State.recordFault
  dsimp only
  split
  · obtain ⟨-, hrest⟩ := h
    exact ⟨fun h0 => absurd h0 hc, hrest⟩
  · exact h

theorem DataInv.closeLink (hd : DataInv s) (hl : s.link = .opened) : DataInv s.closeLink := by
  obtain ⟨hfault, hclose, hout, hrx, hwrite⟩ := hd
  refine ⟨hfault, ?_, hout, hrx, fun l h => hwrite l ?_⟩
  · have h0 : s.hist.count .close = 0 := by simpa [CloseInv, hl] using hclose
    simp [CloseInv, h0]
  · simpa using h

theorem RxInv.drop (h : RxInv s) (n : Nat) : RxInv { s with rxf := s.rxf.drop n } := by
  intro cap hc
  have := h cap hc
  simp only [List.length_drop]
  omega

theorem RxInv.arrive (h : RxInv s) (b : Byte) : RxInv (s.arrive b) := by
  intro cap hc
  have := h cap hc
  have := cap.2
  unfold State.arrive State.arriveWith
  split
  · rename_i hfit
    simp only [rxFits, hc, Bool.or_eq_true, decide_eq_true_eq] at hfit
    simp only [List.length_append, List.length_singleton]
    omega
  · assumption

/-! ### Where a step leads: to the idle Core, or to another step of the same command -/

theorem DataInv.inv_of_idle (hd : DataInv s) (hb : s.busy = false) (hq : s.seq = .idle) (hs : s.sync ≠ .syncing)
    (hr : s.reading = false) (ha : s.aborted = true → s.link = .closed) : Inv s := by
  obtain ⟨hfault, hclose, hout, hrx, hwrite⟩ := hd
  exact {
    seq := by unfold SeqInv; rw [if_neg (by rw [hb]; decide)]; exact hq
    fault := ⟨hfault, fun _ h => by rw [hb] at h; cases h⟩
    sync := ⟨fun h => absurd h hs, fun h => by rw [hb] at h; cases h.1⟩
    link := fun _ h => by rw [hb] at h; cases h
    close := hclose
    out := hout
    rx := hrx
    drain := fun o h => by rw [hq] at h; cases h
    read := fun h => by rw [hr] at h; cases h
    write := hwrite
    abort := fun h => .inl (ha h) }

theorem DataInv.inv_complete {ok : Bool} (hd : DataInv u) (hs : u.sync ≠ .syncing) (hr : u.reading = false)
    (ha : u.aborted = true → u.link = .closed) : Inv (u.complete ok) :=
  have h : DataInv (u.complete ok) := hd.log (e := .done u.cmdOp ok) ⟨nofun, nofun⟩
  h.inv_of_idle rfl rfl hs hr ha

theorem DataInv.inv_endFaulted (hd : DataInv u) (hs : u.sync ≠ .syncing) (hr : u.reading = false)
    (ha : u.aborted = true → u.link = .closed) : Inv u.endFaulted :=
  have h : DataInv u.endFaulted := hd.log (e := .done u.cmdOp false) ⟨nofun, nofun⟩
  h.inv_of_idle rfl rfl hs hr ha

/-- `t` executes the command that `s` executes, on the same link. -/
structure SameCommand (s t : State) : Prop where
  busy    : t.busy = s.busy
  cmd     : t.cmd = s.cmd
  link    : t.link = s.link
  aborted : t.aborted = s.aborted

/-- `t` executes the command that `s` executes, on the same link, with no fault entered since and the same read in
progress. -/
def SameRun (s t : State) : Prop :=
  (t.busy, t.cmd, t.link, t.aborted, t.fault, t.reading) = (s.busy, s.cmd, s.link, s.aborted, s.fault, s.reading)

theorem SameRun.fields (h : SameRun s t) : SameCommand s t ∧ t.fault = s.fault ∧ t.reading = s.reading := by
  simp only [SameRun, Prod.mk.injEq] at h
  obtain ⟨hbusy, hcmd, hlink, haborted, hfault, hreading⟩ := h
  exact ⟨⟨hbusy, hcmd, hlink, haborted⟩, hfault, hreading⟩

theorem SameCommand.inTeardown_eq (h : SameCommand s t) : t.inTeardown = s.inTeardown := by
  simp only [State.inTeardown, State.cmdOp, h.busy, h.cmd]

/-- The command goes on at another of its steps, on an open link. -/
theorem Inv.goesOn (hi : Inv s) (hb : s.busy = true) (hl : s.link = .opened) (hk : SameCommand s t) (hd : DataInv t)
    (hf : t.fault = s.fault ∨ s.inTeardown = true)
    (hq : ∀ op, seqFits op s.seq = true → seqFits op t.seq = true)
    (hs : t.sync = .syncing ↔ inHandshake t.seq = true) (hr : t.reading = false) (hn : DrainInv t) : Inv t := by
  obtain ⟨hfault, hclose, hout, hrx, hwrite⟩ := hd
  exact {
    seq := by
      have h := hi.seq
      unfold SeqInv at h ⊢
      rw [if_pos hb] at h
      rw [hk.busy, if_pos hb, hk.cmd]
      obtain ⟨d, hd, hfit, hok⟩ := h
      exact ⟨d, hd, hq _ hfit, hok⟩
    fault := by
      refine ⟨hfault, fun h _ => ?_⟩
      rw [hk.inTeardown_eq]
      exact hf.elim (fun hf => hi.fault.2 (hf ▸ h) hb) id
    sync := by
      refine Iff.trans hs ?_
      cases t.seq <;> simp [hk.busy, hb, inHandshake]
    link := fun h => by rw [hk.link, hl] at h; cases h
    close := hclose
    out := hout
    rx := hrx
    drain := hn
    read := fun h => by rw [hr] at h; cases h
    write := hwrite
    abort := fun h => by rw [hk.link, hk.inTeardown_eq]; exact hi.abort (hk.aborted ▸ h) }

/-- An ABORT taken leads to the first step of TEARDOWN, whatever was executing (60 R138). -/
theorem DataInv.inv_takeAbort (hd : DataInv s) : Inv s.takeAbort := by
  have hdata : DataInv s.takeAbort := by
    unfold State.takeAbort
    dsimp only
    split
    · exact hd.log (e := .done s.cmdOp false) ⟨nofun, nofun⟩
    · exact hd
  obtain ⟨hfault, hclose, hout, hrx, hwrite⟩ := hdata
  have hT : s.takeAbort.inTeardown = true := by simp [State.inTeardown]
  exact {
    seq := by
      unfold SeqInv
      rw [if_pos (State.takeAbort_busy s)]
      exact ⟨_, State.takeAbort_cmd s, by rw [State.takeAbort_seq]; rfl, by decide⟩
    fault := ⟨hfault, fun _ _ => hT⟩
    sync := by simp [SyncInv, isSyncLabel, isSendLabel]
    link := fun _ _ _ => by simp
    close := hclose
    out := hout
    rx := hrx
    drain := fun o h => by simp at h
    read := fun h => by simp at h
    write := hwrite
    abort := fun _ => .inr hT }

/-! ### The operations of an executing command -/

/-- Fault entry of a primitive of the step SEQ names. `u` is the state in which the primitive failed, `s` the one before
the step (60 R134). -/
theorem Inv.transportError {o : Label} {c : SubLabel} (hi : Inv s) (hb : s.busy = true) (hl : s.link = .opened)
    (hq : s.seq = .call o c) (hu : u.seq = s.seq) (hk : SameCommand s u) (hd : DataInv u) :
    Inv u.transportError := by
  have hrec := hd.recordFault (c := .transportError) (by decide) (.path u.seq)
  have hT : s.inTeardown = seqInD0 u.seq := by
    rw [hi.inTeardown_eq hb, hu, hq]
    cases o <;> rfl
  rcases State.transportError_cases u with ⟨h0, e⟩ | ⟨h0, e⟩ <;> rw [e] <;> rw [h0] at hT
  · exact hi.goesOn hb hl ⟨by simp [hk.busy], by simp [hk.cmd], by simp [hk.link], by simp [hk.aborted]⟩ hrec
      (.inr hT) (fun op h => seqFits_d1 h (by rw [← hi.inTeardown_eq hb, hT])) ⟨nofun, nofun⟩ rfl nofun
  · refine DataInv.inv_endFaulted hrec nofun rfl fun ha => ?_
    have := hi.closed_of_aborted hT (by simpa [hk.aborted] using ha)
    simpa [hk.link] using this

/-- A write from the step `o/c`, which goes on at `o/c'` of the same sequence where it completes (20 R45). `u` is the
state in which the write is made. -/
theorem Inv.txWrite {o : Label} {c c' : SubLabel} {l : List Byte} (hi : Inv s) (hb : s.busy = true)
    (hl : s.link = .opened) (hq : s.seq = .call o c) (hu : u.seq = s.seq) (hk : SameRun s u) (hd : DataInv u)
    (hw : IsWrite l) (hr : readsByte (.call o c) = false) (hc : isSendLabel c' = isSendLabel c)
    (hs : u.sync = .syncing ↔ inHandshake (.call o c') = true) (hn : c' ≠ .fs3) :
    Inv (u.txWrite l (State.goto (.call o c'))) := by
  obtain ⟨htx, hfail⟩ := plainEvent_write hw
  obtain ⟨⟨hbusy, hcmd, hlink, haborted⟩, hfault, hread⟩ := hk.fields
  rcases State.txWrite_cases l (State.goto (.call o c')) u with ⟨-, e⟩ | ⟨-, e⟩ <;> rw [e]
  · exact hi.transportError hb hl hq hu ⟨hbusy, hcmd, hlink, haborted⟩ (hd.log hfail)
  · exact hi.goesOn hb hl ⟨hbusy, hcmd, hlink, haborted⟩ (hd.log htx) (.inl hfault)
      (fun op hfit => seqFits_call (hq ▸ hfit) hc) hs (hread.trans (hi.not_reading hq hr))
      (fun o' h' => absurd (Seq.call.inj h').2 hn)

theorem State.readNeed_cases {c : SubLabel} {n : Nat} (hn : s.readNeed c = some n) :
    (c = .fs3 ∧ n = s.tmpNavail) ∨ (n = 1 ∧ (c = .sp1 ∨ c = .fs5 ∨ c = .fs7)) := by
  cases c <;> cases hn <;> simp

/-- The steps that read keep to their sequence when the read returns, and stay on the same side of FS0. -/
theorem afterRead_labels {o : Label} {c : SubLabel} {n : Nat} (hn : s.readNeed c = some n) (b : Byte) :
    isSendLabel (afterRead c b) = isSendLabel c ∧
    inHandshake (.call o (afterRead c b)) = inHandshake (.call o c) ∧ afterRead c b ≠ .fs3 ∧ c ≠ .sp0 := by
  rcases State.readNeed_cases hn with ⟨rfl, -⟩ | ⟨-, rfl | rfl | rfl⟩ <;> unfold afterRead <;> dsimp only
  case inr.inl => exact ⟨rfl, rfl, nofun, nofun⟩
  all_goals split <;> exact ⟨rfl, rfl, nofun, nofun⟩

theorem Inv.readReturns {o : Label} {c : SubLabel} {m : Nat} (hi : Inv s) (hb : s.busy = true)
    (hq : s.seq = .call o c) (hm : s.readNeed c = some m) (n : Nat) : Inv (s.readReturns o c n) := by
  obtain ⟨hsend, hhand, hfs3, hsp0⟩ := afterRead_labels (o := o) hm (lastByte (s.rxf.take n))
  have hl := hi.link_opened hb hq rfl (fun h => absurd (Seq.call.inj h).2 hsp0)
  have h : DataInv (s.readReturns o c n) := by
    obtain ⟨hfault, hclose, hout, hrx, hwrite⟩ := hi.data.log (e := .rx (s.rxf.take n)) ⟨nofun, nofun⟩
    exact ⟨hfault, hclose, hout, hi.rx.drop n, hwrite⟩
  refine hi.goesOn hb hl ⟨rfl, rfl, rfl, rfl⟩ h (.inl rfl) (fun op hfit => seqFits_call (hq ▸ hfit) hsend) ?_ rfl
    (fun o' h' => absurd (Seq.call.inj h').2 hfs3)
  rw [State.readReturns_sync, hi.syncing_iff hb hq, State.readReturns_seq, hhand]

/-- A blocked read is one of a single byte: the drain finds the bytes FS1 counted (42 R113). -/
theorem Inv.blocks {o : Label} {c : SubLabel} {n : Nat} (hi : Inv s) (hb : s.busy = true) (hq : s.seq = .call o c)
    (hn : s.readNeed c = some n) (hl : s.rxf.length < n) : Inv { s with reading := true } where
  seq := hi.seq
  fault := hi.fault
  sync := hi.sync
  link := hi.link
  close := hi.close
  out := hi.out
  rx := hi.rx
  drain := hi.drain
  read := by
    rcases State.readNeed_cases hn with ⟨rfl, rfl⟩ | ⟨-, hc⟩
    · exact absurd (hi.drain o hq).2 (by omega)
    · exact fun _ => ⟨hb, o, c, hq, hc⟩
  write := hi.write
  abort := hi.abort

theorem Inv.rxRead {o : Label} {c : SubLabel} {n : Nat} (hi : Inv s) (hb : s.busy = true) (hq : s.seq = .call o c)
    (hn : s.readNeed c = some n) : Inv (s.rxRead o c n) := by
  rcases State.rxRead_cases o c n s with ⟨-, e⟩ | ⟨-, -, e⟩ | ⟨-, hl, e⟩ <;> rw [e]
  · obtain ⟨-, -, -, hsp0⟩ := afterRead_labels (o := o) hn 0#8
    have hl := hi.link_opened hb hq rfl (fun h => absurd (Seq.call.inj h).2 hsp0)
    exact hi.transportError hb hl hq rfl ⟨rfl, rfl, rfl, rfl⟩ hi.data
  · exact hi.readReturns hb hq hn n
  · exact hi.blocks hb hq hn hl

theorem encodeDpad_le (f : Byte) : encodeDpad f ≤ 0x08#8 := by
  unfold encodeDpad encodeDpadWith
  split
  · decide
  split
  · decide
  split
  · rename_i d _
    generalize Config.dpadCodes (dirIndex d) = k
    revert k; decide
  · decide

/-- Acceptance by an idle Core (30 R74). -/
theorem Inv.accept (hi : Inv s) (hb : s.busy = false) (d : Descriptor) (rest : Option Descriptor) :
    Inv (s.accept d rest) := by
  obtain ⟨hseq, hsync, hread, hT⟩ := hi.idle hb
  have hd := hi.data
  have haborted := hi.closed_of_aborted hT
  rcases State.accept_effect d rest s with ⟨-, e⟩ | ⟨-, -, e⟩ | ⟨-, -, c, hc, -, e⟩ | ⟨-, hf, hr, ho, hl, e⟩ <;> rw [e]
  · exact DataInv.inv_takeAbort hd
  · have h := hd.log (e := .done d.op false) ⟨nofun, nofun⟩
    exact DataInv.inv_of_idle h rfl rfl hsync hread haborted
  · obtain ⟨-, hrest⟩ := hd.append (ev := [.fault c, .done d.op false]) (by simp [PlainEvent])
    exact DataInv.inv_of_idle ⟨fun h0 => absurd h0 hc, hrest⟩ rfl rfl hsync hread haborted
  · have hq := inHandshake_firstStep d.op
    exact {
      seq := by unfold SeqInv; rw [if_pos rfl]; exact ⟨d, rfl, seqFits_firstStep hr, ho⟩
      fault := ⟨hi.fault.1, fun h _ => beq_iff_eq.mpr (hf.resolve_left h)⟩
      sync := ⟨fun h => absurd h hsync, fun ⟨_, o, c, h, h1, h2⟩ => by
        dsimp only at h
        rw [h] at hq
        simp [inHandshake, h1, h2] at hq⟩
      link := fun h _ ht => by
        by_cases hop : d.op = opTeardown
        · show firstStep d.op = _
          rw [hop]; rfl
        · exact absurd (h.symm.trans (hl ht hop)) (by decide)
      close := hi.close
      out := hi.out
      rx := hi.rx
      drain := fun o h => by
        dsimp only at h
        rw [h] at hq; cases hq
      read := fun h => absurd (h.symm.trans hread) (by decide)
      write := hi.write
      abort := fun h => .inl (haborted h) }

/-- A command outside TEARDOWN and outside the handshake, at a step that does not read, may complete. -/
theorem Inv.completes {ok : Bool} (hi : Inv s) (hb : s.busy = true) (hq : s.seq = q) (hT : isTeardownSeq q = false)
    (hr : readsByte q = false) (hd : DataInv u) (hk : SameRun s u) (hs : u.sync ≠ .syncing) : Inv (u.complete ok) := by
  subst hq
  obtain ⟨⟨-, -, hlink, haborted⟩, -, hread⟩ := hk.fields
  refine hd.inv_complete hs (hread.trans (hi.not_reading rfl hr)) (fun h => ?_)
  rw [hlink]
  exact hi.closed_of_aborted ((hi.inTeardown_eq hb).trans hT) (haborted ▸ h)

/-- The step of a pure command. -/
theorem Inv.computes {ok : Bool} {l : Label} (hi : Inv s) (hb : s.busy = true) (hq : s.seq = .at l)
    (hT : isTeardownSeq (.at l) = false) (hd : DataInv u) (hk : SameRun s u) (hs : u.sync = s.sync) :
    Inv (u.complete ok) :=
  hi.completes hb hq hT rfl hd hk (hs ▸ hi.sync_ne hb hq rfl)

/-- A step that does not read goes on at `q'` in its own rule, with no fault. -/
theorem Inv.movesOn {q' : Seq} (hi : Inv s) (hb : s.busy = true) (hq : s.seq = q) (hr : readsByte q = false)
    (ht : isTransportSeq q = true) (h0 : q ≠ .call .d0 .sp0) (hd : DataInv t) (hk : SameRun s t) (hq' : t.seq = q')
    (hfit : ∀ op, seqFits op q = true → seqFits op q' = true)
    (hs : t.sync = .syncing ↔ inHandshake q' = true) (hn : DrainInv t) : Inv t := by
  subst hq hq'
  obtain ⟨hcommand, hfault, hread⟩ := hk.fields
  exact hi.goesOn hb (hi.link_opened hb rfl ht fun h => absurd h h0) hcommand hd (.inl hfault) hfit hs
    (hread.trans (hi.not_reading rfl hr)) hn

theorem verdict_ne_syncing (b : Bool) : (if b then SyncStatus.synced else .outOfSync) ≠ .syncing := by
  cases b <;> decide

/-- A visit of the poll: on failure a fault, with data the drain of what was counted, else FSX or FS2 (42 R111). -/
theorem Inv.stepFs1 {o : Label} (hi : Inv s) (hb : s.busy = true) (h : s.seq = .call o .fs1) :
    Inv (s.stepFs1With Config.syncWaitBound o) := by
  have hd := hi.data.log (e := .avail s.rxf.length) ⟨nofun, nofun⟩
  have hl := hi.link_opened hb h rfl nofun
  rcases State.stepFs1With_cases Config.syncWaitBound o s with
    ⟨-, e⟩ | ⟨-, hpos, e⟩ | ⟨-, hr, -, e⟩ | ⟨-, hr, -, e⟩ <;> rw [e]
  · exact hi.transportError hb hl h rfl ⟨rfl, rfl, rfl, rfl⟩ hi.data
  · exact hi.movesOn hb h rfl rfl nofun hd rfl rfl (fun _ hfit => seqFits_call hfit rfl)
      (hi.syncing_iff_of_next hb h rfl) fun _ _ => ⟨hpos, Nat.le_refl _⟩
  · rw [hr] at hd
    exact hi.movesOn hb h rfl rfl nofun hd rfl rfl (fun _ hfit => seqFits_call hfit rfl)
      (hi.syncing_iff_of_next hb h rfl) nofun
  · rw [hr] at hd
    exact hi.movesOn hb h rfl rfl nofun hd rfl rfl (fun _ hfit => seqFits_call hfit rfl)
      (hi.syncing_iff_of_next hb h rfl) nofun

/-- Every step of an executing command keeps the invariant. -/
theorem CommandStep.inv (h : CommandStep s t) (hi : Inv s) (hb : s.busy = true) : Inv t := by
  have hd := hi.data
  obtain ⟨hfault, hclose, ⟨hpkt, hout, hres, hdpad⟩, hrx, hwrite⟩ := hi.data
  cases h with
  | crc8 data hc h => exact hi.computes hb h rfl hd rfl rfl
  | buildPacket data p hc hp h =>
    exact hi.computes hb h rfl ⟨hfault, hclose, ⟨rfl, rfl, hres, hdpad⟩, hrx, hwrite⟩ rfl rfl
  | parseAck b hc h => exact hi.computes hb h rfl hd rfl rfl
  | encodeDpad f hc h =>
    exact hi.computes hb h rfl ⟨hfault, hclose, ⟨hpkt, hout, hres, encodeDpad_le f⟩, hrx, hwrite⟩ rfl rfl
  | polar a i hc h => exact hi.computes hb h rfl hd rfl rfl
  | decode v hc h =>
    exact hi.computes hb h rfl ⟨hfault, hclose, ⟨hpkt, hout, rfl, hdpad⟩, hrx, hwrite⟩ rfl rfl
  | sp0 o p h hp =>
    have hl := hi.link_opened hb h rfl fun h0 hl => by simp [State.sendPayload, h.trans h0, hl] at hp
    exact hi.txWrite hb hl h rfl rfl ⟨hfault, hclose, ⟨rfl, hout, hres, hdpad⟩, hrx, hwrite⟩
      (.inr (.inr (.inr ⟨p, rfl⟩))) rfl rfl (hi.syncing_iff_of_next hb h rfl) nofun
  | read o c n h hn => exact hi.rxRead hb h hn
  | sp2Done o h ho =>
    refine hi.completes hb h ?_ rfl hd rfl (verdict_ne_syncing _)
    rcases ho with rfl | rfl | rfl <;> rfl
  | sp2Y0 h =>
    unfold State.stepSp2 afterY0
    dsimp only
    split
    · exact hi.completes hb h rfl rfl hd rfl nofun
    · exact hi.movesOn (q' := .call .y1 .fs0) hb h rfl rfl nofun hd rfl rfl (by decide)
        ⟨nofun, nofun⟩ nofun
  | sp2T0 h =>
    exact hi.movesOn (q' := .at .t1) hb h rfl rfl nofun hd rfl rfl (by decide)
      ⟨fun h => absurd h (verdict_ne_syncing _), nofun⟩ nofun
  | sp2T2 h =>
    exact hi.movesOn (q' := .at .t3) hb h rfl rfl nofun hd rfl rfl (by decide)
      ⟨fun h => absurd h (verdict_ne_syncing _), nofun⟩ nofun
  | sp2D0 h =>
    exact hi.movesOn (q' := .at .d1) hb h rfl rfl nofun hd rfl rfl (by decide)
      ⟨fun h => absurd h (verdict_ne_syncing _), nofun⟩ nofun
  | fs0 o h ho =>
    have hl := hi.link_opened hb h rfl nofun
    exact hi.txWrite hb hl h rfl rfl hd (.inl rfl) rfl rfl ⟨fun _ => rfl, fun _ => rfl⟩ nofun
  | fs1 o h ho => exact hi.stepFs1 hb h
  | fs2 o h ho =>
    have hw := hd.log (e := .wait pollInterval) ⟨nofun, nofun⟩
    exact hi.movesOn (q' := .call o .fs1) hb h rfl rfl nofun hw rfl rfl
      (fun _ hfit => seqFits_call hfit rfl) (hi.syncing_iff_of_next hb h rfl) nofun
  | fs4 o h ho =>
    have hl := hi.link_opened hb h rfl nofun
    exact hi.txWrite hb hl h rfl rfl hd (.inr (.inl rfl)) rfl rfl (hi.syncing_iff_of_next hb h rfl) nofun
  | fs6 o h ho =>
    have hl := hi.link_opened hb h rfl nofun
    exact hi.txWrite hb hl h rfl rfl hd (.inr (.inr (.inl rfl))) rfl rfl
      (hi.syncing_iff_of_next hb h rfl) nofun
  | fs8F0 h => exact hi.completes hb h rfl rfl hd rfl nofun
  | fs8Y1 h =>
    exact hi.movesOn (q' := .call .y2 .sp0) hb h rfl rfl nofun hd rfl rfl (by decide)
      ⟨nofun, nofun⟩ nofun
  | fsxF0 h => exact hi.completes hb h rfl rfl hd rfl nofun
  | fsxY1 h => exact hi.completes hb h rfl rfl hd rfl nofun
  | t1 h =>
    have hw := hd.log (e := .wait tapGap) ⟨nofun, nofun⟩
    exact hi.movesOn (q' := .call .t2 .sp0) hb h rfl rfl nofun hw rfl rfl (by decide)
      (hi.syncing_iff_of_next hb h rfl) nofun
  | t3 hold h =>
    have hw := hd.log (e := .wait hold) ⟨nofun, nofun⟩
    exact hi.movesOn (q' := .at .t4) hb h rfl rfl nofun hw rfl rfl (by decide)
      (hi.syncing_iff_of_next hb h rfl) nofun
  | t4 h => exact hi.computes hb h rfl hd rfl rfl
  | d0Closed h hl =>
    exact hd.inv_complete (hi.sync_ne hb h rfl) (hi.not_reading h rfl) fun _ => hl
  | d1 h =>
    have hl := hi.link_opened hb h rfl nofun
    exact (hd.closeLink hl).inv_complete (hi.sync_ne hb h rfl) (hi.not_reading h rfl) fun _ => rfl

/-! ### A move -/

theorem outInv_reset : OutInv State.reset := by unfold OutInv; decide +kernel

/-- Reset leaves the invariant, whatever RXF holds within its capacity (70 R151, R152). -/
theorem RxInv.inv_resetCore (h : RxInv s) : Inv s.resetCore where
  seq := rfl
  fault := ⟨fun _ => ⟨rfl, rfl⟩, fun h => absurd rfl h⟩
  sync := ⟨nofun, fun h => nomatch h.1⟩
  link := nofun
  close := rfl
  out := outInv_reset
  rx := h
  drain := nofun
  read := nofun
  write := fun l h => by simp [State.resetCore, State.reset] at h
  abort := nofun

theorem Inv.arrive (hi : Inv s) (b : Byte) : Inv (s.arrive b) := by
  have hrx := hi.rx.arrive b
  unfold State.arrive State.arriveWith at hrx ⊢
  split
  · rename_i hfit
    rw [if_pos hfit] at hrx
    exact { hi with
      rx := hrx
      drain := fun o h => by
        have := hi.drain o h
        simp only [List.length_append]
        omega }
  · exact hi

theorem Inv.drawn (hi : Inv s) (d : Draw) (p : Option Descriptor) (sc : List Move) (tk : Nat) :
    Inv (s.drawn d p sc tk) :=
  ⟨hi.seq, hi.fault, hi.sync, hi.link, hi.close, hi.out, hi.rx, hi.drain, hi.read, hi.write, hi.abort⟩

/-- Every step of the machine keeps the invariant. -/
theorem MoveEffect.inv {m : Move} (h : MoveEffect s m t) (hi : Inv s) : Inv t := by
  cases h with
  | portOnly _ d p sc tk => exact hi.drawn d p sc tk
  | accepts d c sc tk hb hp => exact (hi.drawn d s.port sc tk).accept hb c none
  | aborts _ d p sc tk ha hb => exact (hi.drawn d p sc tk).data.inv_takeAbort
  | commandSteps d sc tk t hb ha h => exact h.inv (hi.drawn d s.port sc tk) hb
  | arrives b sc tk => exact (hi.drawn s.draw s.port sc tk).arrive b
  | timesOut sc tk o c n hb hr hq hn hl => exact (hi.drawn s.draw s.port sc tk).readReturns hb hq hn _
  | raises sc tk =>
    exact ⟨hi.seq, hi.fault, hi.sync, hi.link, hi.close, hi.out, hi.rx, hi.drain, hi.read, hi.write, hi.abort⟩
  | resets sc tk => exact (hi.drawn s.draw s.port sc tk).rx.inv_resetCore

/-- Settles O55: each effect a step can have keeps the invariant. -/
theorem invariantKept : Obligations.InvariantKept := by
  unfold Obligations.InvariantKept
  exact fun s t hi h => (step_effects h).inv hi

theorem rxInv_reset : RxInv State.reset := by
  intro cap hc
  show (boundedFifo Config.rxCapacity Config.rxfAtPowerOn).length ≤ cap.1
  rw [hc]
  exact List.length_take_le _ _

/-- Settles O56: power-on is a reset of the state it leaves, with RXF cut to its capacity. -/
theorem invariantAtReset : Obligations.InvariantAtReset := by
  unfold Obligations.InvariantAtReset
  exact rxInv_reset.inv_resetCore

end Sys2Proof.Machine

/-! ## What no step but its own changes (10_state R23, R25, R27, R32) -/

namespace Sys2Proof.Machine

variable {s t : State}

/-! ### The OUT registers -/

/-- The five OUT registers (10 R32). -/
def State.outs (s : State) : Byte × Packet × Byte × (Byte × Byte) × Payload :=
  (s.outCrc, s.outPkt, s.outDpad, s.outXY, s.outPayload)

/-- Each OUT register that differs in `t` is that of the pure command `s` executes (40 R80). -/
def OutsByOwnCommand (s t : State) : Prop :=
  (t.outCrc ≠ s.outCrc → s.busy = true ∧ s.cmdOp = 0x1#4) ∧ (t.outPkt ≠ s.outPkt → s.busy = true ∧ s.cmdOp = 0x2#4) ∧
  (t.outDpad ≠ s.outDpad → s.busy = true ∧ s.cmdOp = 0xA#4) ∧ (t.outXY ≠ s.outXY → s.busy = true ∧ s.cmdOp = 0xB#4) ∧
  (t.outPayload ≠ s.outPayload → s.busy = true ∧ s.cmdOp = 0xC#4)

theorem outsByOwnCommand_of_eq (h : t.outs = s.outs) : OutsByOwnCommand s t := by
  simp only [State.outs, Prod.mk.injEq] at h
  obtain ⟨h1, h2, h3, h4, h5⟩ := h
  exact ⟨fun h => absurd h1 h, fun h => absurd h2 h, fun h => absurd h3 h, fun h => absurd h4 h, fun h => absurd h5 h⟩

@[simp] theorem State.takeAbort_outs (s : State) : s.takeAbort.outs = s.outs := by simp [State.outs]

@[simp] theorem State.transportError_outs (s : State) : s.transportError.outs = s.outs := by
  obtain ⟨f, op, st, q, b, ok, r, ev, h, -⟩ := State.transportError_effect s
  rw [h]; rfl

@[simp] theorem State.accept_outs (d : Descriptor) (rest : Option Descriptor) (s : State) :
    (s.accept d rest).outs = s.outs := by
  rcases State.accept_effect d rest s with ⟨-, h⟩ | ⟨-, -, h⟩ | ⟨-, -, c, -, -, h⟩ | ⟨-, -, -, -, -, h⟩ <;> rw [h]
  · exact State.takeAbort_outs _
  all_goals rfl

@[simp] theorem State.arrive_outs (b : Byte) (s : State) : (s.arrive b).outs = s.outs := by
  simp [State.outs, State.arrive]

theorem CommandEffect.outs (h : CommandEffect s t) (hb : s.busy = true) : OutsByOwnCommand s t := by
  cases h with
  | writeFails => exact outsByOwnCommand_of_eq (State.transportError_outs _)
  | readFails => exact outsByOwnCommand_of_eq (State.transportError_outs _)
  | computes l acc pkt oc op od oxy opl ok hq hl hoc hop hod hxy hpl =>
    exact ⟨fun h => ⟨hb, hoc h⟩, fun h => ⟨hb, hop h⟩, fun h => ⟨hb, hod h⟩, fun h => ⟨hb, hxy h⟩, fun h => ⟨hb, hpl h⟩⟩
  | _ => exact outsByOwnCommand_of_eq rfl

theorem MoveEffect.outs {m : Move} (h : MoveEffect s m t) (hm : m ≠ .reset) : OutsByOwnCommand s t := by
  cases h with
  | portOnly => exact outsByOwnCommand_of_eq rfl
  | accepts => exact outsByOwnCommand_of_eq (State.accept_outs _ _ _)
  | aborts => exact outsByOwnCommand_of_eq (State.takeAbort_outs _)
  | commandSteps d sc tk t hb ha h => exact (command_effects h).outs hb
  | arrives => exact outsByOwnCommand_of_eq (State.arrive_outs _ _)
  | timesOut => exact outsByOwnCommand_of_eq rfl
  | raises => exact outsByOwnCommand_of_eq rfl
  | resets => exact absurd rfl hm

/-- Settles O52: of the effects of a move only the step of a pure command and a reset write an OUT register. -/
theorem outRegistersChange : Obligations.OutRegistersChange := by
  unfold Obligations.OutRegistersChange
  exact fun s t h hm => (step_effects h).outs hm

/-! ### The first fault, a closed link and STATUS.ABORTED -/

/-- `t` keeps the first fault's three registers, a closed link and STATUS.ABORTED of `s`. -/
structure KeepsSticky (s t : State) : Prop where
  fault   : s.fault ≠ .none → t.fault = s.fault ∧ t.faultOp = s.faultOp ∧ t.faultStep = s.faultStep
  link    : s.link = .closed → t.link = .closed
  aborted : s.aborted = true → t.aborted = true

/-- An update that does not touch the five registers. -/
theorem keepsSticky_of_eq (h : (t.fault, t.faultOp, t.faultStep, t.link, t.aborted) =
    (s.fault, s.faultOp, s.faultStep, s.link, s.aborted)) : KeepsSticky s t := by
  simp only [Prod.mk.injEq] at h
  obtain ⟨h1, h2, h3, h4, h5⟩ := h
  exact ⟨fun _ => ⟨h1, h2, h3⟩, h4.trans, h5.trans⟩

theorem keepsSticky_takeAbort (s : State) : KeepsSticky s s.takeAbort :=
  ⟨fun _ => by simp, fun h => by simp [h], fun _ => by simp⟩

theorem keepsSticky_transportError (s : State) : KeepsSticky s s.transportError := by
  obtain ⟨f, op, st, q, b, ok, r, ev, h, hf, -⟩ := State.transportError_effect s
  rw [h]
  exact ⟨hf, id, id⟩

theorem keepsSticky_accept (d : Descriptor) (rest : Option Descriptor) (s : State) :
    KeepsSticky s (s.accept d rest) := by
  rcases State.accept_effect d rest s with ⟨-, h⟩ | ⟨-, -, h⟩ | ⟨-, hf, c, -, -, h⟩ | ⟨-, -, -, -, -, h⟩ <;> rw [h]
  · obtain ⟨h1, h2, h3⟩ := keepsSticky_takeAbort { s with port := some (s.port.getD d) }
    exact ⟨h1, h2, h3⟩
  · exact keepsSticky_of_eq rfl
  · exact ⟨fun h => absurd hf h, id, id⟩
  · exact keepsSticky_of_eq rfl

theorem CommandEffect.keepsSticky (h : CommandEffect s t) : KeepsSticky s t := by
  cases h with
  | writeFails o c l pkt acc sy visit =>
    obtain ⟨h1, h2, h3⟩ := keepsSticky_transportError { s with
      pktBuf := pkt, crcAcc := acc, sync := sy, tmpVisit := visit
      tx := s.tx ++ l.take s.draw.sent, hist := s.hist ++ [.txFail l] }
    exact ⟨h1, h2, h3⟩
  | readFails => exact keepsSticky_transportError s
  | closes => exact ⟨fun _ => ⟨rfl, rfl, rfl⟩, fun _ => rfl, id⟩
  | _ => exact keepsSticky_of_eq rfl

theorem MoveEffect.keepsSticky {m : Move} (h : MoveEffect s m t) (hm : m ≠ .reset) : KeepsSticky s t := by
  cases h with
  | portOnly => exact keepsSticky_of_eq rfl
  | accepts d c sc tk =>
    obtain ⟨h1, h2, h3⟩ := keepsSticky_accept c none (s.drawn d s.port sc tk)
    exact ⟨h1, h2, h3⟩
  | aborts _ d p sc tk =>
    obtain ⟨h1, h2, h3⟩ := keepsSticky_takeAbort (s.drawn d p sc tk)
    exact ⟨h1, h2, h3⟩
  | commandSteps d sc tk t hb ha h =>
    obtain ⟨h1, h2, h3⟩ := (command_effects h).keepsSticky
    exact ⟨h1, h2, h3⟩
  | arrives b sc tk => exact keepsSticky_of_eq (by simp [State.arrive, State.drawn])
  | timesOut => exact keepsSticky_of_eq rfl
  | raises => exact keepsSticky_of_eq rfl
  | resets => exact absurd rfl hm

/-- Settles O53: a second fault entry keeps the first's registers, a closed link is never opened, and only reset clears
STATUS.ABORTED. -/
theorem stickyUntilReset : Obligations.StickyUntilReset := by
  unfold Obligations.StickyUntilReset
  intro s t h hm
  obtain ⟨hfault, hlink, haborted⟩ := (step_effects h).keepsSticky hm
  exact ⟨hfault, hlink, haborted⟩

/-! ### STATREG and the Host's moves (10_state R35 to R37) -/

/-- The fields of a word put together as STATREG is, each read back at its own bits. -/
theorem statReg_fields (a : BitVec 3) (b c d e : BitVec 1) (f : BitVec 2) :
    let w := 0#5 ++ a ++ 0#2 ++ b ++ c ++ d ++ e ++ f
    w.extractLsb' 0 2 = f ∧ w.extractLsb' 2 1 = e ∧ w.extractLsb' 3 1 = d ∧ w.extractLsb' 4 1 = c ∧
      w.extractLsb' 5 1 = b ∧ w.extractLsb' 6 2 = 0#2 ∧ w.extractLsb' 8 3 = a ∧ w.extractLsb' 11 5 = 0#5 := by
  simp [BitVec.extractLsb'_append_eq_of_le, BitVec.extractLsb'_append_eq_of_add_le, -Nat.reduceAdd]

theorem ofBool_eq_ite (b : Bool) : BitVec.ofBool b = if b then 1#1 else 0#1 := by cases b <;> rfl

theorem linkBit_eq_ite (l : LinkStatus) : linkBit l = if l = .opened then 1#1 else 0#1 := by cases l <;> rfl

/-- Settles O59: the fields of STATREG are those it is put together from, and each Host move is its own update. -/
theorem statusWordAndHostMoves : Obligations.StatusWordAndHostMoves := by
  unfold Obligations.StatusWordAndHostMoves
  intro s
  obtain ⟨hsync, hlink, hbusy, hresult, haborted, h6, hfault, h11⟩ := statReg_fields (faultBits s.fault)
    (BitVec.ofBool s.aborted) (BitVec.ofBool s.result) (BitVec.ofBool s.busy) (linkBit s.link) (syncBits s.sync)
  refine ⟨hsync.trans ?_, hlink.trans (linkBit_eq_ite _), hbusy.trans (ofBool_eq_ite _),
    hresult.trans (ofBool_eq_ite _), haborted.trans (ofBool_eq_ite _), h6, hfault.trans ?_, h11, fun v => rfl, rfl, rfl, fun d => ?_⟩
  · cases s.sync <;> rfl
  · cases s.fault <;> rfl
  · exact congrArg Host.Outcome.next (State.presentOnPort_eq d s)

end Sys2Proof.Machine

/-! ## What no instruction reads: STATUS.SYNC and H (10_state R22, R39) -/

namespace Sys2Proof.Machine

/-! ### Two runs that differ in STATUS.SYNC and H alone -/

/-- The state with another STATUS.SYNC and another H. -/
def State.veiled (v : SyncStatus) (h : List Event) (s : State) : State := { s with sync := v, hist := h }

/-- `b` is `a` as it comes of `s` with STATUS.SYNC `v` and H `h` in place of its own: `a` has appended events to the H
of `s`, `b` has appended the same to `h`, and the two have one STATUS.SYNC if they had one before. -/
def Tracks (s : State) (v : SyncStatus) (h : List Event) (a b : State) : Prop :=
  ∃ ev v', a.hist = s.hist ++ ev ∧ (v = s.sync → v' = a.sync) ∧ b = a.veiled v' (h ++ ev)

/-- An update that reads neither STATUS.SYNC nor H. -/
def Blind (f : State → State) : Prop := ∀ s v h, Tracks s v h (f s) (f (s.veiled v h))

/-- The two runs' outcomes: where the one has a next state, so has the other, and it tracks the first's. -/
def OutTracks (s : State) (v : SyncStatus) (h : List Event) (x y : Out) : Prop :=
  ∀ a, x = .next a → ∃ b, y = .next b ∧ Tracks s v h a b

/-- A step that reads neither STATUS.SYNC nor H. -/
def BlindOut (f : State → Out) : Prop := ∀ s v h, OutTracks s v h (f s) (f (s.veiled v h))

section
variable {s a b : State} {v : SyncStatus} {h : List Event}

theorem Tracks.apply {f : State → State} (hf : Blind f) (ht : Tracks s v h a b) : Tracks s v h (f a) (f b) := by
  obtain ⟨ev, v', hev, hv', rfl⟩ := ht
  obtain ⟨ev', v'', hev', hv'', e⟩ := hf a v' (h ++ ev)
  refine ⟨ev ++ ev', v'', ?_, fun hv => hv'' (hv' hv), ?_⟩
  · rw [hev', hev, List.append_assoc]
  · rw [e, List.append_assoc]

theorem OutTracks.next (ht : Tracks s v h a b) : OutTracks s v h (.next a) (.next b) := by
  rintro _ ⟨⟩
  exact ⟨b, rfl, ht⟩

theorem OutTracks.fault {r : Fault} {y : Out} : OutTracks s v h (.fault r) y :=
  fun _ e => by cases e

/-- A condition that the two states share. -/
theorem Tracks.ite {p q : Prop} [Decidable p] [Decidable q] {a' b' : State} (hpq : p ↔ q)
    (ht : p → Tracks s v h a b) (hf : ¬p → Tracks s v h a' b') :
    Tracks s v h (if p then a else a') (if q then b else b') := by
  by_cases hp : p
  · rw [if_pos hp, if_pos (hpq.mp hp)]; exact ht hp
  · rw [if_neg hp, if_neg (mt hpq.mpr hp)]; exact hf hp

theorem OutTracks.ite {p q : Prop} [Decidable p] [Decidable q] {x y x' y' : Out} (hpq : p ↔ q)
    (ht : p → OutTracks s v h x y) (hf : ¬p → OutTracks s v h x' y') :
    OutTracks s v h (if p then x else x') (if q then y else y') := by
  by_cases hp : p
  · rw [if_pos hp, if_pos (hpq.mp hp)]; exact ht hp
  · rw [if_neg hp, if_neg (mt hpq.mpr hp)]; exact hf hp

theorem State.veiled_seq : (s.veiled v h).seq = s.seq := rfl

/-- An update of other fields by values that `s` and its veiled state share. -/
theorem Tracks.updated (hh : a.hist = s.hist) (hs : a.sync = s.sync) (hb : b = a.veiled v h) : Tracks s v h a b :=
  ⟨[], v, by simp [hh], fun e => e.trans hs.symm, by simpa using hb⟩

/-- An update that sets STATUS.SYNC, whatever it was, and appends no event. -/
theorem Tracks.syncSet (hh : a.hist = s.hist) (hb : b = a.veiled a.sync h) : Tracks s v h a b :=
  ⟨[], a.sync, by simp [hh], fun _ => rfl, by simpa using hb⟩

end

/-! ### The state's operations -/

theorem Blind.log (e : Event) : Blind (State.log e) := fun _ v _ => ⟨[e], v, rfl, id, rfl⟩

theorem Blind.goto (q : Seq) : Blind (State.goto q) := fun _ _ _ => .updated rfl rfl rfl

theorem Blind.complete (ok : Bool) : Blind (State.complete ok) := fun s v _ => ⟨[.done s.cmdOp ok], v, rfl, id, rfl⟩

theorem Blind.endFaulted : Blind State.endFaulted := fun s v _ => ⟨[.done s.cmdOp false], v, rfl, id, rfl⟩

theorem Blind.closeLink : Blind State.closeLink := fun _ v _ => ⟨[.close], v, rfl, id, rfl⟩

theorem Blind.waitThen (t : Seconds) (q : Seq) : Blind (State.waitThen t q) :=
  fun _ v _ => ⟨[.wait t], v, rfl, id, rfl⟩

/-- The write of STATUS.SYNC: a value that does not depend on the old one. -/
theorem Blind.setSync (w : SyncStatus) : Blind (fun s => { s with sync := w }) := fun _ _ _ =>
  .syncSet rfl rfl

theorem Blind.recordFault (c : FaultCode) (q : FaultStep) : Blind (State.recordFault c q) := by
  intro s v h
  refine ⟨[.fault c], v, by simp, fun hv => by simp [hv], ?_⟩
  unfold State.recordFault State.veiled
  by_cases hf : s.fault = .none <;> simp [hf, State.log, State.cmdOp]

theorem Blind.transportError : Blind State.transportError := by
  intro s v h
  have hrec := (Blind.recordFault .transportError (.path s.seq) s v h).apply
    (f := fun t => { t with sync := .outOfSync, reading := false }) fun _ _ _ => .syncSet rfl rfl
  refine .ite Iff.rfl (fun _ => ?_) fun _ => ?_
  · exact hrec.apply (f := fun t => { t with tmpOk := false, seq := .at .d1 }) fun _ _ _ => .updated rfl rfl rfl
  · exact hrec.apply .endFaulted

theorem Blind.takeAbort : Blind State.takeAbort := by
  intro s v h
  have hend : Tracks s v h (if s.busy then { s with result := false, hist := s.hist ++ [.done s.cmdOp false] } else s)
      (if s.busy then { s.veiled v h with result := false, hist := h ++ [.done s.cmdOp false] } else s.veiled v h) :=
    .ite Iff.rfl (fun _ => ⟨[.done s.cmdOp false], v, rfl, id, rfl⟩) fun _ => .updated rfl rfl rfl
  exact hend.apply (f := fun t => { t with
    abortReq := false, aborted := true, sync := .outOfSync, reading := false
    cmd := some (Descriptor.blank opTeardown), busy := true, seq := .call .d0 .sp0 }) fun _ _ _ => .syncSet rfl rfl

theorem Blind.presentOnPort (d : Descriptor) : Blind (State.presentOnPort d) := by
  intro s v h
  rw [State.presentOnPort_eq, State.presentOnPort_eq]
  exact .updated rfl rfl rfl

theorem Blind.txWrite {l : List Byte} {k : State → State} (hk : Blind k) : Blind (State.txWrite l k) := by
  intro s v h
  refine .ite Iff.rfl (fun _ => ?_) fun _ => ?_
  · exact .apply .transportError ⟨[.txFail l], v, rfl, id, rfl⟩
  · exact .apply hk ⟨[.tx l], v, rfl, id, rfl⟩

theorem Blind.acceptFault (c : FaultCode) : Blind (State.acceptFault c) := fun s v h =>
  (Blind.recordFault c .accept s v h).apply (f := State.endFaulted) .endFaulted

theorem Blind.accept (d : Descriptor) (rest : Option Descriptor) : Blind (State.accept d rest) := by
  intro s v h
  have hlatch : Tracks s v h { s with cmd := some d, busy := true, port := rest }
      { s.veiled v h with cmd := some d, busy := true, port := rest } := .updated rfl rfl rfl
  refine .ite Iff.rfl (fun _ => (Blind.presentOnPort d s v h).apply .takeAbort) fun _ => ?_
  refine .ite Iff.rfl (fun _ => hlatch.apply .endFaulted) fun _ => ?_
  refine .ite Iff.rfl (fun _ => hlatch.apply (.acceptFault _)) fun _ => ?_
  refine .ite Iff.rfl (fun _ => hlatch.apply (.acceptFault _)) fun _ => ?_
  exact .ite Iff.rfl (fun _ => hlatch.apply (.goto _)) fun _ => hlatch.apply (.acceptFault _)

theorem Blind.readReturns (o : Label) (c : SubLabel) (n : Nat) : Blind (State.readReturns o c n) :=
  fun s v _ => ⟨[.rx (s.rxf.take n)], v, rfl, id, rfl⟩

theorem Blind.rxRead (o : Label) (c : SubLabel) (n : Nat) : Blind (State.rxRead o c n) := by
  intro s v h
  refine .ite Iff.rfl (fun _ => Blind.transportError s v h) fun _ => ?_
  exact .ite Iff.rfl (fun _ => Blind.readReturns o c n s v h) fun _ => .updated rfl rfl rfl

theorem Blind.readTimesOut : Blind State.readTimesOut := by
  intro s v h
  unfold State.readTimesOut State.readTimesOutWith
  rw [show (s.veiled v h).blockedRead = s.blockedRead from rfl]
  split
  · exact Blind.readReturns _ _ _ s v h
  · exact .updated rfl rfl rfl

theorem Blind.arrive (b : Byte) : Blind (State.arrive b) := fun _ _ _ =>
  .ite Iff.rfl (fun _ => .updated rfl rfl rfl) fun _ => .updated rfl rfl rfl

/-! ### The called sequences -/

theorem Blind.stepSp0 (o : Label) (p : Payload) : Blind (State.stepSp0 o p) := fun s v h =>
  .apply (a := { s with pktBuf := buildPacket p, crcAcc := (buildPacket p).crc })
    (b := { s.veiled v h with pktBuf := buildPacket p, crcAcc := (buildPacket p).crc })
    (.txWrite (.goto (.call o .sp1))) (.updated rfl rfl rfl)

theorem Blind.stepSp2 {ret : Bool → State → State} (hret : ∀ ok, Blind (ret ok)) : Blind (State.stepSp2 ret) :=
  fun s v h => (Blind.setSync (if parseAck s.resp then .synced else .outOfSync) s v h).apply
    (f := ret (parseAck s.resp)) (hret _)

theorem Blind.stepFs0 (o : Label) : Blind (State.stepFs0 o) := fun s v h =>
  .apply (a := { s with sync := .syncing, tmpVisit := 0 }) (b := { s.veiled v h with sync := .syncing, tmpVisit := 0 })
    (.txWrite (.goto (.call o .fs1))) (.syncSet rfl rfl)

theorem Blind.stepFs1With (bound : Option WaitBound) (o : Label) : Blind (State.stepFs1With bound o) := by
  intro s v h
  have hlog := Blind.log (.avail s.rxf.length) s v h
  refine .ite Iff.rfl (fun _ => Blind.transportError s v h) fun _ => ?_
  refine .ite Iff.rfl (fun _ => ?_) fun _ => .ite Iff.rfl (fun _ => ?_) fun _ => ?_
  · exact hlog.apply (f := fun t => { t with tmpNavail := s.rxf.length, seq := .call o .fs3 }) fun _ _ _ =>
      .updated rfl rfl rfl
  · exact hlog.apply (f := fun t => { t with resp := byteNoData, seq := .call o .fsx }) fun _ _ _ =>
      .updated rfl rfl rfl
  · exact hlog.apply (.goto (.call o .fs2))

theorem Blind.stepFs2 (o : Label) : Blind (State.stepFs2 o) := fun s v h =>
  .apply (a := { s with tmpVisit := s.tmpVisit + 1 }) (b := { s.veiled v h with tmpVisit := s.tmpVisit + 1 })
    (.waitThen pollInterval (.call o .fs1)) (.updated rfl rfl rfl)

theorem BlindOut.sendSeq {o : Label} {p : Payload} {ret : Bool → State → State} (hret : ∀ ok, Blind (ret ok))
    (c : SubLabel) : BlindOut (sendSeq o p ret c) := by
  intro s v h
  unfold Machine.sendSeq
  split
  · exact .next (Blind.stepSp0 o p s v h)
  · exact .next (Blind.rxRead o .sp1 1 s v h)
  · exact .next (Blind.stepSp2 hret s v h)
  · exact .fault

theorem BlindOut.syncSeq {o : Label} {ret : Bool → State → State} (hret : ∀ ok, Blind (ret ok)) (c : SubLabel) :
    BlindOut (syncSeq o ret c) := by
  intro s v h
  unfold Machine.syncSeq
  split
  · exact .next (Blind.stepFs0 o s v h)
  · exact .next (Blind.stepFs1With _ o s v h)
  · exact .next (Blind.stepFs2 o s v h)
  · exact .next (Blind.rxRead o .fs3 s.tmpNavail s v h)
  · exact .next (Blind.txWrite (.goto (.call o .fs5)) s v h)
  · exact .next (Blind.rxRead o .fs5 1 s v h)
  · exact .next (Blind.txWrite (.goto (.call o .fs7)) s v h)
  · exact .next (Blind.rxRead o .fs7 1 s v h)
  · exact .next ((Blind.setSync .synced s v h).apply (hret true))
  · exact .next ((Blind.setSync .outOfSync s v h).apply (hret false))
  · exact .fault

/-! ### The instructions -/

theorem BlindOut.runCommand {i : Instr} {d : Descriptor} {body : State → Out} (hbody : BlindOut body) :
    BlindOut (runCommand i d body) := by
  intro s v h
  refine .ite Iff.rfl (fun _ => .ite Iff.rfl (fun _ => .ite Iff.rfl (fun _ => ?_) fun _ => ?_) fun _ => ?_) fun _ => ?_
  · exact .next (Blind.takeAbort s v h)
  · exact hbody s v h
  · exact .next (Blind.presentOnPort d s v h)
  · exact .next (Blind.accept (s.offered i d) (s.portAfter i) s v h)

theorem BlindOut.transmitAt {here : Label → SubLabel → Bool} {send : Label → State → State}
    (hsend : ∀ o, Blind (send o)) : BlindOut (transmitAt here send) := by
  intro s v h
  unfold Machine.transmitAt
  rw [State.veiled_seq]
  split
  · rename_i o c hq
    refine .ite Iff.rfl (fun _ => .ite Iff.rfl (fun _ => ?_) fun _ => ?_) fun _ => ?_
    · exact .next (Blind.takeAbort s v h)
    · exact .next (hsend o s v h)
    · exact .next (.updated rfl rfl rfl)
  · exact .next (.updated rfl rfl rfl)

/-! ### The steps of the commands -/

/-- A pure command's step writes its OUT registers and completes (40 R80). -/
theorem Blind.computes {f : State → State} (hf : Blind f) (ok : Bool) : Blind fun s => (f s).complete ok :=
  fun s v h => (hf s v h).apply (.complete ok)

theorem BlindOut.stepCrc8 (data : List Byte) : BlindOut (stepCrc8 data) := by
  intro s v h
  unfold Machine.stepCrc8
  rw [State.veiled_seq]
  split
  · exact .next (Blind.computes (f := fun s => { s with crcAcc := crc8 data, outCrc := crc8 data })
      (fun _ _ _ => .updated rfl rfl rfl) true s v h)
  · exact .fault

theorem BlindOut.stepBuildPacket (data : List Byte) : BlindOut (stepBuildPacket data) := by
  intro s v h
  unfold Machine.stepBuildPacket
  rw [State.veiled_seq]
  split
  · rename_i p _ _
    exact .next (Blind.computes
      (f := fun s => { s with crcAcc := (buildPacket p).crc, pktBuf := buildPacket p, outPkt := buildPacket p })
      (fun _ _ _ => .updated rfl rfl rfl) true s v h)
  · exact .fault

theorem BlindOut.stepParseAck (data : List Byte) : BlindOut (stepParseAck data) := by
  intro s v h
  unfold Machine.stepParseAck
  rw [State.veiled_seq]
  split
  · exact .next (Blind.complete _ s v h)
  · exact .fault

theorem BlindOut.stepEncodeDpad (flags : Byte) : BlindOut (stepEncodeDpad flags) := by
  intro s v h
  unfold Machine.stepEncodeDpad
  rw [State.veiled_seq]
  split
  · exact .next (Blind.computes (f := fun s => { s with outDpad := encodeDpad flags })
      (fun _ _ _ => .updated rfl rfl rfl) true s v h)
  · exact .fault

theorem BlindOut.stepPolarToCartesian (a : Int) (i : Byte) : BlindOut (stepPolarToCartesian a i) := by
  intro s v h
  unfold Machine.stepPolarToCartesian
  rw [State.veiled_seq]
  split
  · exact .next (Blind.computes (f := fun s => { s with outXY := polarDegrees (a % 360) i })
      (fun _ _ _ => .updated rfl rfl rfl) true s v h)
  · exact .fault

theorem BlindOut.stepDecodeControllerState (st : BitVec 64) : BlindOut (stepDecodeControllerState st) := by
  intro s v h
  unfold Machine.stepDecodeControllerState
  rw [State.veiled_seq]
  split
  · exact .next (Blind.computes (f := fun s => { s with outPayload := decodeState st })
      (fun _ _ _ => .updated rfl rfl rfl) true s v h)
  · exact .fault

theorem BlindOut.stepReserved : BlindOut stepReserved := fun _ _ _ => .fault

theorem BlindOut.stepSendPacket (data : List Byte) : BlindOut (stepSendPacket data) := by
  intro s v h
  unfold Machine.stepSendPacket
  rw [State.veiled_seq]
  split
  · exact BlindOut.sendSeq .complete _ s v h
  · exact .fault

theorem BlindOut.stepSendCommand (st : BitVec 64) : BlindOut (stepSendCommand st) := by
  intro s v h
  unfold Machine.stepSendCommand
  rw [State.veiled_seq]
  split
  · exact BlindOut.sendSeq .complete _ s v h
  · exact .fault

theorem BlindOut.stepForceSync : BlindOut stepForceSync := by
  intro s v h
  unfold Machine.stepForceSync
  rw [State.veiled_seq]
  split
  · exact BlindOut.syncSeq .complete _ s v h
  · exact .fault

theorem Blind.afterY0 (ok : Bool) : Blind (afterY0 ok) := by
  cases ok
  · exact fun _ _ _ => .updated rfl rfl rfl
  · exact fun s v h => .apply (a := { s with tmpOk1 := true }) (b := { s.veiled v h with tmpOk1 := true })
      (.complete true) (.updated rfl rfl rfl)

theorem Blind.afterY1 (ok : Bool) : Blind (afterY1 ok) := by
  cases ok
  · exact .complete false
  · exact fun _ _ _ => .updated rfl rfl rfl

theorem BlindOut.stepSync : BlindOut stepSync := by
  intro s v h
  unfold Machine.stepSync
  rw [State.veiled_seq]
  split
  · exact BlindOut.sendSeq .afterY0 _ s v h
  · exact BlindOut.syncSeq .afterY1 _ s v h
  · exact BlindOut.sendSeq .complete _ s v h
  · exact .fault

theorem BlindOut.stepTapCommand (st : BitVec 64) (hold : Seconds) : BlindOut (stepTapCommand st hold) := by
  intro s v h
  unfold Machine.stepTapCommand
  rw [State.veiled_seq]
  split
  · exact BlindOut.sendSeq (ret := fun ok t => { t with tmpOk1 := ok, seq := .at .t1 })
      (fun _ _ _ _ => .updated rfl rfl rfl) _ s v h
  · exact .next (Blind.waitThen _ _ s v h)
  · exact BlindOut.sendSeq (ret := fun ok t => { t with tmpOk := ok, seq := .at .t3 })
      (fun _ _ _ _ => .updated rfl rfl rfl) _ s v h
  · exact .next (Blind.waitThen _ _ s v h)
  · exact .next (Blind.complete _ s v h)
  · exact .fault

theorem BlindOut.stepTeardown : BlindOut stepTeardown := by
  intro s v h
  unfold Machine.stepTeardown
  rw [State.veiled_seq]
  split
  · refine .ite Iff.rfl (fun _ => .next (Blind.complete _ s v h)) fun _ => ?_
    exact BlindOut.sendSeq (ret := fun ok t => { t with tmpOk := ok, seq := .at .d1 })
      (fun _ _ _ _ => .updated rfl rfl rfl) _ s v h
  · exact .next ((Blind.closeLink s v h).apply (.complete s.tmpOk))
  · exact .fault

/-- No instruction reads STATUS.SYNC or H. -/
theorem exec_blind (i : Instr) : BlindOut (exec i) := by
  cases i with
  | crc8 data => exact .runCommand (.stepCrc8 data)
  | buildPacket data => exact .runCommand (.stepBuildPacket data)
  | parseAck data => exact .runCommand (.stepParseAck data)
  | sendPacket data => exact .runCommand (.stepSendPacket data)
  | forceSync => exact .runCommand .stepForceSync
  | sync => exact .runCommand .stepSync
  | sendCommand st => exact .runCommand (.stepSendCommand st)
  | tapCommand st hold => exact .runCommand (.stepTapCommand st hold)
  | teardown => exact .runCommand .stepTeardown
  | encodeDpad flags => exact .runCommand (.stepEncodeDpad flags)
  | polarToCartesian a i => exact .runCommand (.stepPolarToCartesian a i)
  | decodeControllerState st => exact .runCommand (.stepDecodeControllerState st)
  | reserved0 => exact .runCommand .stepReserved
  | reservedD => exact .runCommand .stepReserved
  | reservedE => exact .runCommand .stepReserved
  | reservedF => exact .runCommand .stepReserved
  | release => exact .runCommand (.stepSendCommand neutralState)
  | syncStart => exact .transmitAt .stepFs0
  | sync1 => exact .transmitAt fun _ => .txWrite (.goto _)
  | sync2 => exact .transmitAt fun _ => .txWrite (.goto _)
  | wirePacket p =>
    exact fun s => BlindOut.transmitAt (here := fun _ c => c == .sp0 && s.sendPayload == some p)
      (fun o => .stepSp0 o p) s
  | usbAck => exact fun s v h => .next (Blind.arrive _ s v h)
  | updateAck => exact fun s v h => .next (Blind.arrive _ s v h)
  | updateNack => exact fun s v h => .next (Blind.arrive _ s v h)
  | syncStartEcho => exact fun s v h => .next (Blind.arrive _ s v h)
  | sync1Response => exact fun s v h => .next (Blind.arrive _ s v h)
  | syncOkResponse => exact fun s v h => .next (Blind.arrive _ s v h)
  | noData => exact fun s v h => .next (Blind.readTimesOut s v h)

/-- Settles O50: veiling STATUS.SYNC alone, the next states' H is the same and only STATUS.SYNC may differ. -/
theorem nothingTestsSync : Obligations.NothingTestsSync := by
  unfold Obligations.NothingTestsSync
  intro i s t v h
  obtain ⟨_, hexec, ev, v', hev, -, rfl⟩ := exec_blind i s v s.hist t h
  rw [← hev] at hexec
  exact ⟨v', hexec⟩

/-- Settles O51: veiling H alone, the next states' STATUS.SYNC is the same and each H is its old one with the same
events appended. -/
theorem historyNeverRead : Obligations.HistoryNeverRead := by
  unfold Obligations.HistoryNeverRead
  intro i s t h hexec
  obtain ⟨_, hveiled, ev, v', hev, hv', rfl⟩ := exec_blind i s s.sync h t hexec
  rw [hv' rfl] at hveiled
  exact ⟨ev, hev, hveiled⟩

end Sys2Proof.Machine

/-! ## Reads, RXF and a closed link (20_memory R47 to R50) -/

namespace Sys2Proof.Machine

variable {s t : State}

/-- With no ABORT due an executing command does the step SEQ names (30 R74, 60 R137). -/
theorem runCommand_executing {i : Instr} {d : Descriptor} {body : State → Out} (hb : s.busy = true)
    (hc : s.cmd.map decodeCommand = some i) (ha : s.abortDue = false) : runCommand i d body s = body s := by
  unfold runCommand
  rw [if_pos hb, if_pos hc, ha]
  rfl

/-! ### A read (20_memory R47, 60_exceptions R149) -/

theorem sendSeq_read {c : SubLabel} {n : Nat} (hc : isSendLabel c = true) (hn : s.readNeed c = some n) (o : Label)
    (p : Payload) (ret : Bool → State → State) : sendSeq o p ret c s = .next (s.rxRead o c n) := by
  cases c <;> cases hc <;> cases hn
  rfl

theorem syncSeq_read {c : SubLabel} {n : Nat} (hc : isSyncLabel c = true) (hn : s.readNeed c = some n) (o : Label)
    (ret : Bool → State → State) : syncSeq o ret c s = .next (s.rxRead o c n) := by
  cases c <;> cases hc <;> cases hn <;> rfl

theorem payloadOf_of_length {data : List Byte} (h : data.length = 8) : ∃ p, payloadOf data = some p := by
  match data, h with
  | [_, _, _, _, _, _, _, _], _ => exact ⟨_, rfl⟩

/-- Every command that calls a sequence performs the read SEQ names there. The cases are the rows of `seqFits`, numbered
in their order: S0, F0, Y0, Y1, Y2, C0, T0, T2 and D0. -/
theorem SeqInv.exec_read {i : Instr} {o : Label} {c : SubLabel} {n : Nat} (h : SeqInv s) (hb : s.busy = true)
    (hc : s.cmd.map decodeCommand = some i) (ha : s.abortDue = false) (hq : s.seq = .call o c)
    (hn : s.readNeed c = some n) : exec i s = .next (s.rxRead o c n) := by
  unfold SeqInv at h
  rw [if_pos hb, hq] at h
  obtain ⟨d, hd, hfit, hok⟩ := h
  have hi : decodeCommand d = i := by simpa [hd] using hc
  unfold decodeCommand at hi
  unfold seqFits at hfit
  split at hfit <;> rename_i hop hlabel
  case h_20 => cases hfit
  all_goals cases hlabel
  all_goals rw [hop] at hi; subst hi; refine (runCommand_executing hb hc ha).trans ?_
  case h_4 =>
    obtain ⟨p, hp⟩ := payloadOf_of_length (data := d.data) (by
      have h4 : d.op = 0x4#4 := BitVec.eq_of_toNat_eq hop
      simpa [operandsOk, operandsOkWith, h4] using hok)
    unfold stepSendPacket
    rw [hq, hp]
    exact sendSeq_read hfit hn _ _ _
  case h_5 => unfold stepForceSync; rw [hq]; exact syncSeq_read hfit hn _ _
  case h_6 | h_8 => unfold stepSync; rw [hq]; exact sendSeq_read hfit hn _ _ _
  case h_7 => unfold stepSync; rw [hq]; exact syncSeq_read hfit hn _ _
  case h_9 => unfold stepSendCommand; rw [hq]; exact sendSeq_read hfit hn _ _ _
  case h_10 | h_12 => unfold stepTapCommand; rw [hq]; exact sendSeq_read hfit hn _ _ _
  case h_15 =>
    have hc0 : ¬(c = .sp0 ∧ s.link = .closed) := by rintro ⟨rfl, -⟩; cases hn
    unfold stepTeardown
    rw [hq]
    exact (if_neg hc0).trans (sendSeq_read hfit hn _ _ _)

/-- Settles O30: of the outcomes of the read only the blocked one is left. -/
theorem blockedReadWaits : Obligations.BlockedReadWaits := by
  unfold Obligations.BlockedReadWaits
  intro i s o c n hinv hb hc ha hf hq hn hlt
  rw [hinv.exec_read hb hc ha hq hn]
  rcases State.rxRead_cases o c n s with ⟨hf', -⟩ | ⟨-, hle, -⟩ | ⟨-, -, e⟩
  · exact absurd (hf.symm.trans hf') (by decide)
  · omega
  · rw [e]

/-! ### The timeout of a blocked read (20_memory R47) -/

theorem State.blockedRead_of_lt {o : Label} {c : SubLabel} {n : Nat} (hb : s.busy = true) (hr : s.reading = true)
    (hq : s.seq = .call o c) (hn : s.readNeed c = some n) (hlt : s.rxf.length < n) :
    s.blockedRead = some (o, c) := by
  unfold State.blockedRead
  rw [hq]
  dsimp only
  rw [hn]
  simp [hb, hr, hlt]

theorem State.readTimesOut_of_none (h : s.blockedRead = none) : s.readTimesOut = s := by
  unfold State.readTimesOut State.readTimesOutWith
  rw [h]

theorem State.readTimesOut_of_blocked {o : Label} {c : SubLabel} (h : s.blockedRead = some (o, c)) :
    s.readTimesOut = if Config.readTimeout.isSome then s.readReturns o c s.rxf.length else s := by
  unfold State.readTimesOut State.readTimesOutWith
  rw [h]
  cases Config.readTimeout <;> rfl

/-- A read of an empty RXF that returns leaves RXF as it is and NO_DATA in RESP (10 R28). -/
theorem State.readReturns_of_nil (h : s.rxf = []) (o : Label) (c : SubLabel) (n : Nat) :
    s.readReturns o c n = { s with
      resp := 0x00#8, reading := false, seq := .call o (afterRead c 0x00#8), hist := s.hist ++ [.rx []] } := by
  cases s
  cases h
  unfold State.readReturns
  rw [List.take_nil, List.drop_nil]
  rfl

/-! ### The verdict of a send (42_link_sequencer R107) -/

/-- SP2's verdict as the pair of the answer the caller gets and the value of STATUS.SYNC. -/
theorem State.stepSp2_eq {ok : Bool} {v : SyncStatus}
    (h : (ok, v) = if s.resp = 0x90#8 then (true, SyncStatus.synced) else (false, .outOfSync))
    (ret : Bool → State → State) : s.stepSp2 ret = ret ok { s with sync := v } := by
  have hok : parseAck s.resp = decide (s.resp = 0x90#8) := beq_eq_decide _ _
  unfold State.stepSp2
  rw [hok]
  split at h <;> rename_i hresp <;> cases h
  · rw [decide_eq_true hresp]; rfl
  · rw [decide_eq_false hresp]; rfl

/-- A command other than TEARDOWN completes and leaves ABORT_REQ as it is (60 R137). -/
theorem State.complete_eq {op : OpCode} (hop : s.cmdOp = op) (hne : op ≠ opTeardown) (ok : Bool) :
    s.complete ok = { s with
      result := ok, busy := false, seq := .idle, hist := s.hist ++ [.done op ok] } := by
  subst hop
  unfold State.complete
  simp [hne]

/-- A verdict that completes a command other than TEARDOWN. -/
theorem State.stepSp2_complete {ok : Bool} {v : SyncStatus} {op : OpCode}
    (h : (ok, v) = if s.resp = 0x90#8 then (true, SyncStatus.synced) else (false, .outOfSync))
    (hop : s.cmdOp = op) (hne : op ≠ opTeardown) : s.stepSp2 State.complete = { s with
      sync := v, result := ok, busy := false, seq := .idle, hist := s.hist ++ [.done op ok] } :=
  (State.stepSp2_eq h _).trans (State.complete_eq (s := { s with sync := v }) hop hne ok)

/-- NO_DATA at a read of one byte, on an empty RXF. -/
theorem exec_noData_of_blocked {o : Label} {c c' : SubLabel} (hb : s.busy = true) (hr : s.reading = true)
    (hrxf : s.rxf = []) (hq : s.seq = .call o c)
    (hc : (c, c') ∈ [(SubLabel.sp1, SubLabel.sp2), (.fs5, .fsx), (.fs7, .fsx)]) :
    exec .noData s = .next (if Config.readTimeout.isSome then { s with
      resp := 0x00#8, reading := false, seq := .call o c', hist := s.hist ++ [.rx []] } else s) := by
  have hread : s.readNeed c = some 1 ∧ afterRead c 0x00#8 = c' := by
    simp only [List.mem_cons, Prod.mk.injEq, List.not_mem_nil, or_false] at hc
    rcases hc with ⟨rfl, rfl⟩ | ⟨rfl, rfl⟩ | ⟨rfl, rfl⟩ <;> exact ⟨rfl, rfl⟩
  obtain ⟨hn, rfl⟩ := hread
  have hblocked := State.blockedRead_of_lt hb hr hq hn (by rw [hrxf]; decide)
  show Host.Outcome.next s.readTimesOut = _
  rw [State.readTimesOut_of_blocked hblocked, State.readReturns_of_nil hrxf]

/-- Settles O31: the timeout is the read's return on an empty RXF, and at SP2 every send has the one verdict, with
which the command that sent goes on. -/
theorem timedOutRead : Obligations.TimedOutRead := by
  unfold Obligations.TimedOutRead
  refine ⟨fun s o c c' => exec_noData_of_blocked, fun s h => congrArg _ (State.readTimesOut_of_none h),
    fun i s ok v hb hc ha hv => ⟨?sendPacket, ?sendCommand, ?syncY0, ?syncY2, ?tap, ?teardown⟩⟩
  case sendPacket =>
    rintro data rfl hdata hq
    obtain ⟨p, hp⟩ := payloadOf_of_length hdata
    refine (runCommand_executing hb hc ha).trans ?_
    unfold stepSendPacket
    rw [hq, hp]
    exact congrArg _ (State.stepSp2_complete hv (State.cmdOp_of_decode rfl hc) (by decide))
  case sendCommand =>
    rintro w rfl hq
    refine (runCommand_executing hb hc ha).trans ?_
    unfold stepSendCommand
    rw [hq]
    exact congrArg _ (State.stepSp2_complete hv (State.cmdOp_of_decode rfl hc) (by decide))
  case syncY0 =>
    rintro rfl hq
    have hop : s.cmdOp = 0x6#4 := State.cmdOp_of_decode rfl hc
    refine (runCommand_executing hb hc ha).trans ?_
    unfold stepSync
    rw [hq]
    refine congrArg _ ((State.stepSp2_eq hv afterY0).trans ?_)
    cases ok with
    | false => rfl
    | true => exact State.complete_eq (s := { s with sync := v, tmpOk1 := true }) hop (by decide) true
  case syncY2 =>
    rintro rfl hq
    refine (runCommand_executing hb hc ha).trans ?_
    unfold stepSync
    rw [hq]
    exact congrArg _ (State.stepSp2_complete hv (State.cmdOp_of_decode rfl hc) (by decide))
  case tap =>
    rintro w hold rfl
    refine ⟨fun hq => ?_, fun hq => ?_⟩
    all_goals
      refine (runCommand_executing hb hc ha).trans ?_
      unfold stepTapCommand
      rw [hq]
      exact congrArg _ (State.stepSp2_eq hv _)
  case teardown =>
    rintro rfl hq
    refine (runCommand_executing hb hc ha).trans ?_
    unfold stepTeardown
    rw [hq]
    exact (if_neg (fun h => nomatch h.1)).trans (congrArg _ (State.stepSp2_eq hv _))

/-! ### RXF is a FIFO (20_memory R47 to R49) -/

@[simp] theorem State.transportError_rxf (s : State) : s.transportError.rxf = s.rxf := by
  obtain ⟨f, op, st, q, b, ok, r, ev, h, -⟩ := State.transportError_effect s
  rw [h]

@[simp] theorem State.accept_rxf (d : Descriptor) (rest : Option Descriptor) (s : State) :
    (s.accept d rest).rxf = s.rxf := by
  rcases State.accept_effect d rest s with ⟨-, h⟩ | ⟨-, -, h⟩ | ⟨-, -, c, -, -, h⟩ | ⟨-, -, -, -, -, h⟩ <;> rw [h]
  exact State.takeAbort_rxf _

/-- `t` holds in RXF what `s` does, but for bytes at its head that H records as read. -/
def ReadsHead (s t : State) : Prop :=
  t.rxf = s.rxf ∨ ∃ n, t.rxf = s.rxf.drop n ∧ t.hist = s.hist ++ [.rx (s.rxf.take n)]

theorem CommandEffect.readsHead (h : CommandEffect s t) : ReadsHead s t := by
  cases h with
  | writeFails => exact .inl (State.transportError_rxf _)
  | readFails => exact .inl (State.transportError_rxf _)
  | reads o c n => exact .inr ⟨n, rfl, rfl⟩
  | _ => exact .inl rfl

theorem MoveEffect.rxf_cases {m : Move} (h : MoveEffect s m t) :
    ReadsHead s t ∨ ∃ b, m = .arrive b ∧ t.rxf = s.rxf ++ [b] := by
  cases h with
  | portOnly => exact .inl (.inl rfl)
  | accepts => exact .inl (.inl (State.accept_rxf _ _ _))
  | aborts => exact .inl (.inl (State.takeAbort_rxf _))
  | commandSteps d sc tk t hb ha h => exact .inl (command_effects h).readsHead
  | arrives b sc tk =>
    unfold State.arrive State.arriveWith
    split
    · exact .inr ⟨b, rfl, rfl⟩
    · exact .inl (.inl rfl)
  | timesOut sc tk o c n => exact .inl (.inr ⟨s.rxf.length, rfl, rfl⟩)
  | raises => exact .inl (.inl rfl)
  | resets => exact .inl (.inl rfl)

/-- Settles O47: of the effects of a move only an arrival appends to RXF, and only a read's return or its timeout takes
bytes from it. -/
theorem receiveFifoOrder : Obligations.ReceiveFifoOrder := by
  unfold Obligations.ReceiveFifoOrder
  intro s t h
  rcases (step_effects h).rxf_cases with (hsame | hread) | harrive
  · exact .inl hsame
  · exact .inr (.inr hread)
  · exact .inr (.inl harrive)

/-! ### A closed link (20_memory R50, 42_link_sequencer R122) -/

/-- The event is a fault or a completion. -/
def IsEnding (e : Event) : Prop := (∃ c, e = .fault c) ∨ ∃ op ok, e = .done op ok

/-- `t` has sent what `s` has, and H has grown by faults and completions alone. -/
def Silent (s t : State) : Prop := t.tx = s.tx ∧ ∃ ev, t.hist = s.hist ++ ev ∧ ∀ e ∈ ev, IsEnding e

theorem isEnding_fault (c : FaultCode) : IsEnding (.fault c) := .inl ⟨c, rfl⟩

theorem isEnding_done (op : OpCode) (ok : Bool) : IsEnding (.done op ok) := .inr ⟨op, ok, rfl⟩

theorem silent_of_eq (htx : t.tx = s.tx) (hhist : t.hist = s.hist) : Silent s t :=
  ⟨htx, [], by rw [hhist, List.append_nil], nofun⟩

theorem silent_of_done {op : OpCode} {ok : Bool} (htx : t.tx = s.tx) (hhist : t.hist = s.hist ++ [.done op ok]) :
    Silent s t :=
  ⟨htx, _, hhist, by simpa using isEnding_done op ok⟩

theorem silent_takeAbort (s : State) : Silent s s.takeAbort := by
  by_cases hb : s.busy = true
  · exact silent_of_done (State.takeAbort_tx s) (by rw [State.takeAbort_hist, if_pos hb])
  · exact silent_of_eq (State.takeAbort_tx s) (by rw [State.takeAbort_hist, if_neg hb])

theorem silent_transportError (s : State) : Silent s s.transportError := by
  obtain ⟨f, op, st, q, b, ok, r, ev, h, -, -, hev⟩ := State.transportError_effect s
  rw [h]
  refine ⟨rfl, _, rfl, ?_⟩
  rcases hev with rfl | rfl <;> simp [isEnding_fault, isEnding_done]

theorem silent_accept (d : Descriptor) (rest : Option Descriptor) (s : State) : Silent s (s.accept d rest) := by
  rcases State.accept_effect d rest s with ⟨-, h⟩ | ⟨-, -, h⟩ | ⟨-, -, c, -, -, h⟩ | ⟨-, -, -, -, -, h⟩ <;> rw [h]
  · exact silent_takeAbort _
  · exact silent_of_done rfl rfl
  · exact ⟨rfl, _, rfl, by simp [isEnding_fault, isEnding_done]⟩
  · exact silent_of_eq rfl rfl

/-- A write step has an open link: TEARDOWN's first step, too, sends nothing on a closed one (42 R121). -/
theorem Inv.link_opened_of_write {o : Label} {c : SubLabel} {l : List Byte} (hi : Inv s) (hb : s.busy = true)
    (hq : s.seq = .call o c) (hw : WriteStep s o c l) : s.link = .opened := by
  refine hi.link_opened hb hq rfl fun h0 hl => ?_
  cases hw with
  | packet p h => simp [State.sendPayload, hq.trans h0, hl] at h
  | _ => cases h0

/-- A read step has an open link. -/
theorem Inv.link_opened_of_read {o : Label} {c : SubLabel} {n : Nat} (hi : Inv s) (hb : s.busy = true)
    (hq : s.seq = .call o c) (hn : s.readNeed c = some n) : s.link = .opened := by
  obtain ⟨-, -, -, hsp0⟩ := afterRead_labels (o := o) hn 0#8
  exact hi.link_opened hb hq rfl fun h0 => absurd (Seq.call.inj h0).2 hsp0

/-- On a closed link a step of an executing command is silent: one that writes, reads, polls, waits or closes has an
open link. -/
theorem CommandEffect.silent (h : CommandEffect s t) (hi : Inv s) (hb : s.busy = true) (hl : s.link = .closed) :
    Silent s t := by
  have hopen : s.link ≠ .opened := by rw [hl]; decide
  cases h with
  | writeFails o c l pkt acc sy visit hf hq hw => exact absurd (hi.link_opened_of_write hb hq hw) hopen
  | writes o c c' l pkt acc sy visit hf hq hw => exact absurd (hi.link_opened_of_write hb hq hw) hopen
  | readFails => exact silent_transportError s
  | reads o c n hf hq hn => exact absurd (hi.link_opened_of_read hb hq hn) hopen
  | blocks => exact silent_of_eq rfl rfl
  | polls o c' n r hq => exact absurd (hi.link_opened hb hq rfl nofun) hopen
  | pollWaits o hq => exact absurd (hi.link_opened hb hq rfl nofun) hopen
  | tapWaits l w q hq hl' =>
    refine absurd (hi.link_opened hb hq ?_ nofun) hopen
    rcases hl' with rfl | rfl <;> rfl
  | computes => exact silent_of_done rfl rfl
  | verdictEnds => exact silent_of_done rfl rfl
  | verdictGoesOn => exact silent_of_eq rfl rfl
  | teardownEnds => exact silent_of_done rfl rfl
  | closes hq => exact absurd (hi.link_opened hb hq rfl nofun) hopen

theorem MoveEffect.silent {m : Move} (h : MoveEffect s m t) (hi : Inv s) (hl : s.link = .closed) (hm : m ≠ .reset) :
    Silent s t := by
  cases h with
  | portOnly => exact silent_of_eq rfl rfl
  | accepts d c sc tk => exact silent_accept c none (s.drawn d s.port sc tk)
  | aborts _ d p sc tk => exact silent_takeAbort (s.drawn d p sc tk)
  | commandSteps d sc tk t hb ha h => exact (command_effects h).silent (hi.drawn d s.port sc tk) hb hl
  | arrives => exact silent_of_eq (State.arriveWith_tx _ _ _) (State.arriveWith_hist _ _ _)
  | timesOut sc tk o c n hb hr hq hn => exact absurd (hi.link_opened_of_read hb hq hn) (by rw [hl]; decide)
  | raises => exact silent_of_eq rfl rfl
  | resets => exact absurd rfl hm

/-- Settles O54: with the link closed the invariant leaves no step that writes, reads, polls, waits or closes. -/
theorem closedLinkIsSilent : Obligations.ClosedLinkIsSilent := by
  unfold Obligations.ClosedLinkIsSilent
  intro s t hi hl hm h
  exact (step_effects h).silent hi hl hm

end Sys2Proof.Machine

/-! ## The decoder and the encoder (30_encoding) -/

namespace Sys2Proof

open Sys2Proof.Machine

/-! ### Commands (30_encoding R59, R60, R75 to R77) -/

/-- The assembler's descriptor decodes to the command, RELEASE's to SEND_COMMAND 0. -/
theorem decodeCommand_encodeCommand {i : Instr} {d : Descriptor} (h : encodeCommand i = some d) :
    decodeCommand d = i.core := by
  cases i <;> cases h <;> rfl

theorem encode_of_encodeCommand {i : Instr} {d : Descriptor} (h : encodeCommand i = some d) : encode i = .cmd d := by
  cases i <;> cases h <;> rfl

theorem Instr.core_of_ne_release {i : Instr} (h : i ≠ .release) : i.core = i := by
  cases i
  case release => exact absurd rfl h
  all_goals rfl

/-- Settles O2: OP selects the command, and the assembler's descriptor of what was decoded decodes to it again. -/
theorem commandDecoderTotal : Obligations.CommandDecoderTotal := by
  unfold Obligations.CommandDecoderTotal
  intro d
  obtain ⟨e, he⟩ := Option.ne_none_iff_exists'.mp (decodeCommand_isCommand d)
  have hdec : decodeCommand e = decodeCommand d := (decodeCommand_encodeCommand he).trans (decodeCommand_core d)
  exact ⟨rfl, decodeCommand_opcode d, e, he, (decodeCommand_eq hdec).1, hdec⟩

/-! ### Packets on the transmit stream (30_encoding R63) -/

theorem decodePacket_packetBytes (p : Payload) : decodePacket (packetBytes (buildPacket p)) = some p :=
  if_pos rfl

/-- A packet's nine bytes are no symbol of one byte. -/
theorem decodeTx_packetBytes (p : Payload) : decodeTx (packetBytes (buildPacket p)) = some (.wirePacket p) := by
  have hne : ∀ b, packetBytes (buildPacket p) ≠ [b] := fun b h => nomatch congrArg List.length h
  unfold decodeTx
  rw [if_neg (hne _), if_neg (hne _), if_neg (hne _), decodePacket_packetBytes]
  rfl

theorem decode_packetBytes (p : Payload) : decode (.tx (packetBytes (buildPacket p))) = .ok (.wirePacket p) := by
  unfold decode
  dsimp only
  rw [decodeTx_packetBytes]

/-- The CRC the spec gives the neutral payload (00_scope R7, 30_encoding R63). -/
theorem crc8_neutral : crc8 (payloadBytes neutralPayload) = 0x54#8 := by decide +kernel

theorem buildPacket_neutral : buildPacket neutralPayload = { payload := neutralPayload, crc := 0x54#8 } := by
  unfold buildPacket; rw [crc8_neutral]

theorem packetBytes_neutral : packetBytes (buildPacket neutralPayload) =
    [0x00#8, 0x00#8, 0x08#8, 0x80#8, 0x80#8, 0x80#8, 0x80#8, 0x00#8, 0x54#8] := by
  rw [buildPacket_neutral]; rfl

/-! ### Every instruction -/

theorem decode_encode (i : Instr) : decode (encode i) = .ok i.core := by
  cases hd : encodeCommand i with
  | some d =>
    rw [encode_of_encodeCommand hd, ← decodeCommand_encodeCommand hd]
    rfl
  | none =>
    cases i
    case wirePacket p => exact decode_packetBytes p
    case syncStart | sync1 | sync2 | usbAck | updateAck | updateNack | syncStartEcho | sync1Response |
      syncOkResponse | noData => rfl
    all_goals cases hd

/-- Settles O1: a command by its descriptor, a wire symbol by its bytes. -/
theorem decodeEncodeAgree : Obligations.DecodeEncodeAgree := by
  unfold Obligations.DecodeEncodeAgree
  exact fun i => ⟨decode_encode i, Instr.core_of_ne_release, rfl⟩

/-! ### Words and fields -/

/-- Settles O3: the table's words and the bytes are read by evaluation, the neutral packet as the packet it is. -/
theorem writtenWordsDecode : Obligations.WrittenWordsDecode := by
  unfold Obligations.WrittenWordsDecode
  refine ⟨rfl, rfl, rfl, rfl, rfl, rfl, rfl, rfl, rfl, ?_⟩
  have hword : encodedOfTableWord 72 0x540080808080080000 = some (.tx (packetBytes (buildPacket neutralPayload))) := by
    rw [packetBytes_neutral]; rfl
  unfold decodeTableWord
  rw [hword]
  dsimp only
  rw [decode_packetBytes]

/-- Settles O4: two neighbouring fields put together are the field over both. -/
theorem stateFieldsTile : Obligations.StateFieldsTile := by
  unfold Obligations.StateFieldsTile fieldsOf
  intro s
  repeat rw [BitVec.extractLsb'_append_extractLsb'_eq_extractLsb']
  · exact BitVec.extractLsb'_eq_self
  all_goals rfl

end Sys2Proof

/-! ## Progress (10_state R30, 30_encoding R75) -/

namespace Sys2Proof.Machine

variable {s : State}

/-! ### The step of an executing command -/

/-- What the executing command does at the step `o/c` of a sequence it called: a step of SEND_PACKET_SEQ, a step of
FORCE_SYNC_SEQ, or the end of a TEARDOWN that finds the link closed (42 R107, R111, R121). -/
inductive CallStep (s : State) (o : Label) (c : SubLabel) : Out → Prop where
  | send (p : Payload) (ret : Bool → State → State) (hc : isSendLabel c = true)
      (hp : c = .sp0 → s.sendPayload = some p) : CallStep s o c (sendSeq o p ret c s)
  | sync (ret : Bool → State → State) (hc : isSyncLabel c = true) : CallStep s o c (syncSeq o ret c s)
  | closed (hc : c = .sp0) (ho : o = .d0) (hl : s.link = .closed) : CallStep s o c (.next (s.complete false))

theorem CallStep.exists_next {o : Label} {c : SubLabel} {x : Out} (h : CallStep s o c x) : ∃ t, x = .next t := by
  cases h with
  | send p ret hc => cases c <;> cases hc <;> exact ⟨_, rfl⟩
  | sync ret hc => cases c <;> cases hc <;> exact ⟨_, rfl⟩
  | closed => exact ⟨_, rfl⟩

theorem CallStep.eq_stepSp0 {o : Label} {p : Payload} {x : Out} (h : CallStep s o .sp0 x) (hq : s.seq = .call o .sp0)
    (hp : s.sendPayload = some p) : x = .next (s.stepSp0 o p) := by
  cases h with
  | send p' ret hc hp' => cases hp.symm.trans (hp' rfl); rfl
  | sync ret hc => cases hc
  | closed hc ho hl => subst ho; simp [State.sendPayload, hq, hl] at hp

/-- The latched descriptor is one of the executing command, whose rule has the step SEQ names. -/
theorem SeqInv.latched {i : Instr} (h : SeqInv s) (hb : s.busy = true) (hc : s.cmd.map decodeCommand = some i) :
    ∃ d, s.cmd = some d ∧ decodeCommand d = i ∧ seqFits d.op s.seq = true ∧ operandsOk d = true := by
  unfold SeqInv at h
  rw [if_pos hb] at h
  obtain ⟨d, hd, hfit, hok⟩ := h
  exact ⟨d, hd, by simpa [hd] using hc, hfit, hok⟩

/-- DATA that the operand checks accept as a payload is one (30 R62). -/
theorem payloadOf_of_operandsOk {d : Descriptor} (hop : d.op = 0x2#4 ∨ d.op = 0x4#4) (h : operandsOk d = true) :
    ∃ p, payloadOf d.data = some p :=
  payloadOf_of_length (by rcases hop with hop | hop <;> simpa [operandsOk, operandsOkWith, hop] using h)

/-- Every command that calls a sequence does the step SEQ names there. The cases are the rows of `seqFits`, numbered in
their order: S0, F0, Y0, Y1, Y2, C0, T0, T2 and D0. -/
theorem SeqInv.exec_call {i : Instr} {o : Label} {c : SubLabel} (h : SeqInv s) (hb : s.busy = true)
    (hc : s.cmd.map decodeCommand = some i) (hq : s.seq = .call o c) :
    ∃ d body, exec i s = runCommand i d body s ∧ CallStep s o c (body s) := by
  obtain ⟨d, hd, hi, hfit, hok⟩ := h.latched hb hc
  rw [hq] at hfit
  unfold decodeCommand at hi
  unfold seqFits at hfit
  split at hfit <;> rename_i hop hlabel
  case h_20 => cases hfit
  all_goals cases hlabel
  all_goals rw [hop] at hi; subst hi; refine ⟨_, _, rfl, ?_⟩
  case h_4 =>
    obtain ⟨p, hp⟩ := payloadOf_of_operandsOk (.inr (BitVec.eq_of_toNat_eq hop)) hok
    unfold stepSendPacket
    rw [hq, hp]
    exact .send p _ hfit fun _ => by simp only [State.sendPayload, hq, hd, hp]
  case h_5 => unfold stepForceSync; rw [hq]; exact .sync _ hfit
  case h_6 | h_8 => unfold stepSync; rw [hq]; exact .send _ _ hfit fun _ => by simp only [State.sendPayload, hq]
  case h_7 => unfold stepSync; rw [hq]; exact .sync _ hfit
  case h_9 =>
    unfold stepSendCommand; rw [hq]; exact .send _ _ hfit fun _ => by simp only [State.sendPayload, hq, hd]
  case h_10 =>
    unfold stepTapCommand; rw [hq]; exact .send _ _ hfit fun _ => by simp only [State.sendPayload, hq, hd]
  case h_12 => unfold stepTapCommand; rw [hq]; exact .send _ _ hfit fun _ => by simp only [State.sendPayload, hq]
  case h_15 =>
    unfold stepTeardown
    rw [hq]
    dsimp only
    split
    · rename_i h0; exact .closed h0.1 rfl h0.2
    · rename_i h0
      exact .send _ _ hfit fun hsp0 => by simp only [State.sendPayload, hq, if_neg fun hl => h0 ⟨hsp0, hl⟩]

/-- A command's own step has a next state: the operand checks of its acceptance rule the other outcomes out (30 R62).
The cases are the rows of `seqFits`: K0 of the three framing commands, T1, T3, T4, D1 and E0 of the three encoder
commands. -/
theorem SeqInv.exec_at {i : Instr} {l : Label} (h : SeqInv s) (hb : s.busy = true)
    (hc : s.cmd.map decodeCommand = some i) (hq : s.seq = .at l) :
    ∃ d body, exec i s = runCommand i d body s ∧ ∃ t, body s = .next t := by
  obtain ⟨d, hd, hi, hfit, hok⟩ := h.latched hb hc
  rw [hq] at hfit
  unfold decodeCommand at hi
  unfold seqFits at hfit
  split at hfit <;> rename_i hop hlabel
  case h_20 => cases hfit
  all_goals cases hlabel
  all_goals rw [hop] at hi; subst hi; refine ⟨_, _, rfl, ?_⟩
  case h_1 => unfold stepCrc8; rw [hq]; exact ⟨_, rfl⟩
  case h_2 =>
    obtain ⟨p, hp⟩ := payloadOf_of_operandsOk (.inl (BitVec.eq_of_toNat_eq hop)) hok
    unfold stepBuildPacket
    rw [hq, hp]
    exact ⟨_, rfl⟩
  case h_3 =>
    have h3 : d.op = 0x3#4 := BitVec.eq_of_toNat_eq hop
    obtain ⟨b, hdata⟩ := List.length_eq_one_iff.mp (by simpa [operandsOk, operandsOkWith, h3] using hok)
    unfold stepParseAck
    rw [hq, hdata]
    exact ⟨_, rfl⟩
  case h_11 | h_13 | h_14 => unfold stepTapCommand; rw [hq]; exact ⟨_, rfl⟩
  case h_16 => unfold stepTeardown; rw [hq]; exact ⟨_, rfl⟩
  case h_17 => unfold stepEncodeDpad; rw [hq]; exact ⟨_, rfl⟩
  case h_18 => unfold stepPolarToCartesian; rw [hq]; exact ⟨_, rfl⟩
  case h_19 => unfold stepDecodeControllerState; rw [hq]; exact ⟨_, rfl⟩

theorem seqFits_idle (op : OpCode) : seqFits op .idle = false := by simp [seqFits]

theorem runCommand_exists_next {i : Instr} {d : Descriptor} {body : State → Out} (h : ∃ t, body s = .next t) :
    ∃ t, runCommand i d body s = .next t := by
  unfold runCommand
  split
  · split
    · split
      · exact ⟨_, rfl⟩
      · exact h
    · exact ⟨_, rfl⟩
  · exact ⟨_, rfl⟩

theorem SeqInv.exec_exists_next {c : Descriptor} (h : SeqInv s) (hb : s.busy = true) (hc : s.cmd = some c) :
    ∃ t, exec (decodeCommand c) s = .next t := by
  have hdec : s.cmd.map decodeCommand = some (decodeCommand c) := by rw [hc]; rfl
  rcases hq : s.seq with _ | l | ⟨o, c'⟩
  · obtain ⟨d, -, -, hfit, -⟩ := h.latched hb hdec
    rw [hq, seqFits_idle] at hfit
    cases hfit
  · obtain ⟨d, body, e, hbody⟩ := h.exec_at hb hdec hq
    exact e ▸ runCommand_exists_next hbody
  · obtain ⟨d, body, e, hbody⟩ := h.exec_call hb hdec hq
    exact e ▸ runCommand_exists_next hbody.exists_next

/-! ### A move -/

theorem SeqInv.runMove_exists_next (h : SeqInv s) (m : Move) : ∃ t, runMove m s = .next t := by
  cases m with
  | core d =>
    by_cases hb : s.busy = true
    · obtain ⟨c, hc, -⟩ : ∃ c, s.cmd = some c ∧ _ := by simpa only [SeqInv, if_pos hb] using h
      rw [runMove_of_fetchInstr (fetchInstr_core_busy hb hc)]
      exact SeqInv.exec_exists_next (s := { s with draw := d }) h hb hc
    · cases hp : s.port with
      | some c =>
        have hb' : s.busy = false := by simpa using hb
        rw [runMove_of_fetchInstr (fetchInstr_core_idle hb' hp)]
        exact ⟨_, exec_accepts_port hb' hp⟩
      | none =>
        unfold runMove
        rw [fetchInstr_core_none (by rw [if_neg hb]; exact hp)]
        dsimp only [otherMove]
        rw [if_neg hb]
        split <;> exact ⟨_, rfl⟩
  | arrive b =>
    cases ha : arrivalInstr b with
    | some i => exact ⟨_, (runMove_of_fetchInstr (fetchInstr_arrive ha)).trans (exec_arrivalInstr ha s)⟩
    | none =>
      unfold runMove fetchInstr
      dsimp only
      rw [ha]
      exact ⟨_, rfl⟩
  | _ => exact ⟨_, rfl⟩

/-- Settles O57: the executing command has a next state, and so has every move that runs no command. -/
theorem stepNeverStops : Obligations.StepNeverStops := by
  unfold Obligations.StepNeverStops
  intro s hi
  have hseq : SeqInv s.nextMove.2 := by
    rcases State.nextMove_cases s with ⟨m, rest, -, e⟩ | ⟨-, e⟩ <;> rw [e] <;> exact hi.seq
  exact hseq.runMove_exists_next _

end Sys2Proof.Machine

/-! ## Acceptance (30_encoding R74, 60_exceptions R134 to R139) -/

namespace Sys2Proof.Machine

variable {s : State}

/-! ### What an accepted descriptor does to an idle Core -/

/-- An ABORT taken by an idle Core (60 R138). -/
theorem State.takeAbort_idle (hb : s.busy = false) : s.takeAbort = { s with
    abortReq := false, aborted := true, sync := .outOfSync, reading := false
    cmd := some (Descriptor.blank opTeardown), busy := true, seq := .call .d0 .sp0 } := by
  unfold State.takeAbort
  rw [hb]
  rfl

/-- The end of a command that an idle Core accepted, with no more than its DONE (60 R135). -/
theorem State.endFaulted_accepted (hb : s.busy = false) (d : Descriptor) (rest : Option Descriptor) :
    { s with cmd := some d, busy := true, port := rest }.endFaulted = { s with
      cmd := some d, port := rest, result := false, seq := .idle, hist := s.hist ++ [.done d.op false] } := by
  cases s
  cases hb
  rfl

/-- The first fault, entered by a check of a command that an idle Core accepted (60 R132, R134). -/
theorem State.acceptFault_accepted (hb : s.busy = false) (hf : s.fault = .none) (c : FaultCode) (d : Descriptor)
    (rest : Option Descriptor) : { s with cmd := some d, busy := true, port := rest }.acceptFault c = { s with
      cmd := some d, port := rest, fault := c, faultOp := d.op, faultStep := .accept, result := false
      seq := .idle, hist := s.hist ++ [.fault c, .done d.op false] } := by
  cases s
  cases hb
  cases hf
  simp [State.acceptFault, State.recordFault, State.endFaulted, State.cmdOp, State.log]

/-! ### The checks, as conditions on OP and the operands -/

theorem opReserved_iff (op : OpCode) : opReserved op = true ↔ op = 0x0#4 ∨ op = 0xD#4 ∨ op = 0xE#4 ∨ op = 0xF#4 := by
  revert op; decide

theorem opUsesTransport_iff (op : OpCode) :
    opUsesTransport op = true ∧ op ≠ opTeardown ↔ 0x4#4 ≤ op ∧ op ≤ 0x8#4 := by
  revert op; decide

theorem operandsOk_eq_false_iff (d : Descriptor) : operandsOk d = false ↔
    (d.op = 0x1#4 ∧ crcLenOk Config.crcMaxLen d.data.length = false) ∨ (d.op = 0x2#4 ∧ d.data.length ≠ 8) ∨
      (d.op = 0x3#4 ∧ d.data.length ≠ 1) ∨ (d.op = 0x4#4 ∧ d.data.length ≠ 8) := by
  unfold operandsOk operandsOkWith
  by_cases h1 : d.op = 0x1#4
  · simp [h1]
  by_cases h2 : d.op = 0x2#4
  · simp [h2]
  by_cases h3 : d.op = 0x3#4
  · simp [h3]
  by_cases h4 : d.op = 0x4#4
  · simp [h4]
  simp [h1, h2, h3, h4]

/-! ### Acceptance in order -/

/-- An ABORT at acceptance leaves the same descriptor on the port, whether the offered or the assembler's is presented:
a port that holds one keeps it (30 R74). -/
theorem State.getD_offered (i : Instr) (d : Descriptor) (s : State) :
    s.port.getD (s.offered i d) = s.port.getD d := by
  unfold State.offered
  cases s.port <;> rfl

/-- A port that holds another command keeps it, and the assembler's descriptor is the one offered (30 R74; log 11). -/
theorem State.offered_of_port_ne {i : Instr} {p : Descriptor} (hp : s.port = some p) (h : decodeCommand p ≠ i)
    (d : Descriptor) : s.offered i d = d ∧ s.portAfter i = some p := by
  unfold State.offered State.portAfter
  rw [hp]
  exact ⟨if_neg h, if_neg fun e => h (Option.some.inj e)⟩

theorem State.offered_of_port_none {i : Instr} (hp : s.port = none) (d : Descriptor) :
    s.offered i d = d ∧ s.portAfter i = none := by
  unfold State.offered State.portAfter
  rw [hp]
  exact ⟨rfl, rfl⟩

/-- A command that is not the executing one is held on the port (30 R74). -/
theorem exec_held {i : Instr} {d : Descriptor} (hd : encodeCommand i = some d) (hb : s.busy = true)
    (hc : s.cmd.map decodeCommand ≠ some i.core) : exec i s = .next { s with port := some (s.port.getD d) } := by
  have key : ∀ body, runCommand i.core d body s = .next { s with port := some (s.port.getD d) } := by
    intro body
    unfold runCommand
    rw [if_pos hb, if_neg hc, State.presentOnPort_eq]
  cases i <;> cases hd <;> exact key _

/-- Settles O25: the checks of acceptance one below the other; past the fault gate a command that a check faults is no
TEARDOWN, so its fault is the first. -/
theorem acceptanceInOrder : Obligations.AcceptanceInOrder := by
  unfold Obligations.AcceptanceInOrder
  intro i d x rest s hd hport
  obtain ⟨hx, hrest⟩ : s.offered i.core d = x ∧ s.portAfter i.core = rest := by
    cases hp : s.port with
    | none =>
      rw [hp] at hport
      cases hport
      exact State.offered_of_port_none hp d
    | some p =>
      rw [hp] at hport
      dsimp only at hport
      split at hport <;> rename_i hdec <;> cases hport
      · rw [← hdec]
        exact ⟨State.offered_of_port hp, State.portAfter_of_port hp⟩
      · exact State.offered_of_port_ne hp hdec d
  refine ⟨hx, hrest, exec_held hd, fun hb => ?_⟩
  rw [exec_idle hd hb, hx, hrest]
  refine congrArg _ (ite_congr rfl (fun _ => ?abort) fun _ => ite_congr rfl (fun _ => s.endFaulted_accepted hb x rest)
    fun hgate => ?_)
  case abort =>
    rw [State.presentOnPort_eq, ← hx, State.getD_offered]
    exact State.takeAbort_idle hb
  have hfirst (hop : x.op ≠ opTeardown) : s.fault = .none := by_contra fun hf => hgate ⟨hf, hop⟩
  refine ite_congr (propext (opReserved_iff x.op))
    (fun hop => State.acceptFault_accepted hb (hfirst ?reserved) _ x rest) fun _ => ite_congr
    (propext (by rw [← and_assoc, opUsesTransport_iff, and_assoc]))
    (fun hop => State.acceptFault_accepted hb (hfirst ?closed) _ x rest) fun _ => ?operands
  case reserved => rcases hop with h | h | h | h <;> rw [h] <;> decide
  case closed => exact ((opUsesTransport_iff x.op).mpr ⟨hop.1, hop.2.1⟩).2
  case operands =>
    cases hok : operandsOk x with
    | true =>
      rw [if_pos rfl, if_neg (mt (operandsOk_eq_false_iff x).mpr (by rw [hok]; decide))]
      rfl
    | false =>
      have hbad := (operandsOk_eq_false_iff x).mp hok
      rw [if_neg (by decide), if_pos hbad]
      refine State.acceptFault_accepted hb (hfirst ?_) _ x rest
      rcases hbad with ⟨h, -⟩ | ⟨h, -⟩ | ⟨h, -⟩ | ⟨h, -⟩ <;> rw [h] <;> decide

/-- Settles O26: a ready Core's gate is open, so the reserved OP is what the first check that fails finds. -/
theorem reservedOpsFault : Obligations.ReservedOpsFault := by
  unfold Obligations.ReservedOpsFault
  intro s hs i op hi
  obtain ⟨hb, hf, ha⟩ := hs
  obtain ⟨hd, hcore, hr⟩ : encodeCommand i = some (Descriptor.blank op) ∧ i.core = i ∧ opReserved op = true := by
    simp only [List.mem_cons, Prod.mk.injEq, List.not_mem_nil, or_false] at hi
    rcases hi with ⟨rfl, rfl⟩ | ⟨rfl, rfl⟩ | ⟨rfl, rfl⟩ | ⟨rfl, rfl⟩ <;> exact ⟨rfl, rfl, rfl⟩
  have hop : (s.offered i (Descriptor.blank op)).op = op :=
    (State.offered_eq ((decodeCommand_encodeCommand hd).trans hcore) s).1
  rw [exec_idle hd hb, hcore]
  unfold State.accept
  rw [if_neg (by rw [ha]; decide), if_neg fun h => h.1 hf, if_pos (by rw [hop, hr]),
    State.acceptFault_accepted hb hf, hop]

end Sys2Proof.Machine

/-! ## What the machine sends and receives (30_encoding R63 to R67, 42_link_sequencer R107, R111) -/

namespace Sys2Proof.Machine

variable {s t : State}

/-! ### The writes of the called sequences -/

theorem State.txWrite_of_ok (h : s.draw.fails = false) (l : List Byte) (k : State → State) :
    s.txWrite l k = k { s with tx := s.tx ++ l, hist := s.hist ++ [.tx l] } := by
  rcases State.txWrite_cases l k s with ⟨hf, -⟩ | ⟨-, e⟩
  · rw [h] at hf; cases hf
  · exact e

theorem State.stepSp0_of_ok (h : s.draw.fails = false) (o : Label) (p : Payload) : s.stepSp0 o p = { s with
    pktBuf := buildPacket p, crcAcc := crc8 (payloadBytes p), tx := s.tx ++ packetBytes (buildPacket p)
    seq := .call o .sp1, hist := s.hist ++ [.tx (packetBytes (buildPacket p))] } :=
  State.txWrite_of_ok (s := { s with pktBuf := buildPacket p, crcAcc := (buildPacket p).crc }) h _ _

theorem State.stepFs0_of_ok (h : s.draw.fails = false) (o : Label) : s.stepFs0 o = { s with
    sync := .syncing, tmpVisit := 0, tx := s.tx ++ flushBytes, seq := .call o .fs1
    hist := s.hist ++ [.tx flushBytes] } :=
  State.txWrite_of_ok (s := { s with sync := .syncing, tmpVisit := 0 }) h _ _

/-! ### A transmitted symbol (30_encoding R65) -/

theorem transmitAt_here {here : Label → SubLabel → Bool} {o : Label} {c : SubLabel} (hb : s.busy = true)
    (hq : s.seq = .call o c) (hh : here o c = true) (send : Label → State → State) :
    transmitAt here send s = if s.abortDue then .next s.takeAbort else .next (send o s) := by
  unfold transmitAt
  rw [hq]
  dsimp only
  rw [hb, hh]
  rfl

theorem transmitAt_sends {here : Label → SubLabel → Bool} {o : Label} {c : SubLabel} (hb : s.busy = true)
    (ha : s.abortDue = false) (hq : s.seq = .call o c) (hh : here o c = true) (send : Label → State → State) :
    transmitAt here send s = .next (send o s) := by
  rw [transmitAt_here hb hq hh, ha]
  rfl

/-- At a step that does not read, the executing command takes a due ABORT and otherwise does what SEQ names, as the
symbol of the step does. -/
theorem runCommand_eq_transmitAt {i : Instr} {d : Descriptor} {body : State → Out} {here : Label → SubLabel → Bool}
    {o : Label} {c : SubLabel} {send : Label → State → State} (hb : s.busy = true)
    (hc : s.cmd.map decodeCommand = some i) (hq : s.seq = .call o c) (hn : s.readNeed c = none)
    (hh : here o c = true) (hbody : body s = .next (send o s)) : runCommand i d body s = transmitAt here send s := by
  have hr : s.readHasOutcome = false := State.readHasOutcome_eq_false fun o' c' hq' => by
    cases hq.symm.trans hq'; exact hn
  rw [transmitAt_here hb hq hh]
  unfold runCommand
  rw [if_pos hb, if_pos hc, hr, hbody, Bool.not_false, Bool.and_true]

/-- At a write of FORCE_SYNC_SEQ the executing FORCE_SYNC and the executing SYNC do what the symbol does. -/
theorem exec_eq_symbol {i : Instr} {o : Label} {c : SubLabel} {send : Label → State → State} (hb : s.busy = true)
    (hc : s.cmd.map decodeCommand = some i) (hi : (i, o) ∈ [(Instr.forceSync, Label.f0), (.sync, .y1)])
    (hq : s.seq = .call o c) (hn : s.readNeed c = none) (hsend : ∀ ret, syncSeq o ret c s = .next (send o s)) :
    exec i s = transmitAt (fun o' c' => callsSync o' && c' == c) send s := by
  simp only [List.mem_cons, Prod.mk.injEq, List.not_mem_nil, or_false] at hi
  rcases hi with ⟨rfl, rfl⟩ | ⟨rfl, rfl⟩
  · exact runCommand_eq_transmitAt hb hc hq hn (beq_self_eq_true c) (by unfold stepForceSync; rw [hq]; exact hsend _)
  · exact runCommand_eq_transmitAt hb hc hq hn (beq_self_eq_true c) (by unfold stepSync; rw [hq]; exact hsend _)

/-- Settles O44: a symbol's step is its write, and the executing command's step is the same write behind the same look
at a due ABORT. -/
theorem transmittedSymbols : Obligations.TransmittedSymbols := by
  unfold Obligations.TransmittedSymbols
  refine ⟨fun s o hb ha hf => ⟨fun ho hq => ?fs0, fun ho hq => ?fs4, fun ho hq => ?fs6, fun p hp hq => ?sp0⟩,
    fun i s hb hc => ⟨fun o hi => ⟨fun hq => ?own0, fun hq => ?own4, fun hq => ?own6⟩, fun o p hinv hp hq => ?ownSp0⟩⟩
  case fs0 => exact (transmitAt_sends hb ha hq (by rw [ho]; rfl) _).trans (congrArg _ (State.stepFs0_of_ok hf o))
  case fs4 => exact (transmitAt_sends hb ha hq (by rw [ho]; rfl) _).trans (congrArg _ (State.txWrite_of_ok hf _ _))
  case fs6 => exact (transmitAt_sends hb ha hq (by rw [ho]; rfl) _).trans (congrArg _ (State.txWrite_of_ok hf _ _))
  case sp0 =>
    rw [List.append_assoc]
    exact (transmitAt_sends hb ha hq (by rw [hp]; simp) _).trans (congrArg _ (State.stepSp0_of_ok hf o p))
  case own0 => exact exec_eq_symbol hb hc hi hq rfl fun _ => rfl
  case own4 => exact exec_eq_symbol hb hc hi hq rfl fun _ => rfl
  case own6 => exact exec_eq_symbol hb hc hi hq rfl fun _ => rfl
  case ownSp0 =>
    obtain ⟨d, body, e, hbody⟩ := hinv.exec_call hb hc hq
    rw [e]
    exact runCommand_eq_transmitAt hb hc hq rfl (by rw [hp]; simp) (hbody.eq_stepSp0 hq hp)

/-! ### The bytes that leave (20_memory R45) -/

@[simp] theorem State.transportError_tx (s : State) : s.transportError.tx = s.tx := by
  obtain ⟨f, op, st, q, b, ok, r, ev, h, -⟩ := State.transportError_effect s
  rw [h]

@[simp] theorem State.accept_tx (d : Descriptor) (rest : Option Descriptor) (s : State) :
    (s.accept d rest).tx = s.tx := by
  rcases State.accept_effect d rest s with ⟨-, h⟩ | ⟨-, -, h⟩ | ⟨-, -, c, -, -, h⟩ | ⟨-, -, -, -, -, h⟩ <;> rw [h]
  exact State.takeAbort_tx _

/-- What a write step writes does not depend on the model's own fields. -/
theorem WriteStep.of_drawn {o : Label} {c : SubLabel} {l : List Byte} {d : Draw} {p : Option Descriptor}
    {sc : List Move} {tk : Nat} (h : WriteStep (s.drawn d p sc tk) o c l) : WriteStep s o c l := by
  cases h with
  | packet p hp => exact .packet o p hp
  | flush ho => exact .flush o ho
  | sync1 ho => exact .sync1 o ho
  | sync2 ho => exact .sync2 o ho

/-- `t` has sent what `s` has and then, if anything, the first bytes of what the write step that `s` is at writes. -/
def SendsAtWriteStep (s t : State) : Prop :=
  t.tx = s.tx ∨ s.busy = true ∧ ∃ o c l n, s.seq = .call o c ∧ WriteStep s o c l ∧ t.tx = s.tx ++ l.take n

theorem CommandEffect.sends (h : CommandEffect s t) (hb : s.busy = true) : SendsAtWriteStep s t := by
  cases h with
  | writeFails o c l pkt acc sy visit hf hq hw =>
    exact .inr ⟨hb, o, c, l, s.draw.sent, hq, hw, State.transportError_tx _⟩
  | writes o c c' l pkt acc sy visit hf hq hw =>
    exact .inr ⟨hb, o, c, l, l.length, hq, hw, by rw [List.take_length]⟩
  | readFails => exact .inl (State.transportError_tx _)
  | _ => exact .inl rfl

theorem MoveEffect.sends {m : Move} (h : MoveEffect s m t) : SendsAtWriteStep s t := by
  cases h with
  | accepts => exact .inl (State.accept_tx _ _ _)
  | aborts => exact .inl (State.takeAbort_tx _)
  | commandSteps d sc tk t hb ha h =>
    rcases (command_effects h).sends hb with e | ⟨-, o, c, l, n, hq, hw, e⟩
    · exact .inl e
    · exact .inr ⟨hb, o, c, l, n, hq, hw.of_drawn, e⟩
  | arrives => exact .inl (State.arriveWith_tx _ _ _)
  | _ => exact .inl rfl

theorem take_singleton_of_ne_nil {b : Byte} {n : Nat} (h : [b].take n ≠ []) : [b].take n = [b] := by
  cases n with
  | zero => exact absurd rfl h
  | succ n => exact congrArg (b :: ·) List.take_nil

/-- Settles O45: of the effects of a move only a command's write, completed or failed, sends bytes. -/
theorem transmitOnlyAtWriteSteps : Obligations.TransmitOnlyAtWriteSteps := by
  unfold Obligations.TransmitOnlyAtWriteSteps
  intro s t h
  rcases (step_effects h).sends with e | ⟨hb, o, c, l, n, hq, hw, e⟩
  · exact ⟨[], by rw [e, List.append_nil], fun h => absurd rfl h⟩
  · refine ⟨l.take n, e, fun hne => ⟨hb, o, n, ?_⟩⟩
    cases hw with
    | packet p hp => exact .inl ⟨hq, p, hp, rfl⟩
    | flush ho => exact .inr (.inl ⟨hq, rfl⟩)
    | sync1 ho => exact .inr (.inr (.inl ⟨hq, take_singleton_of_ne_nil hne⟩))
    | sync2 ho => exact .inr (.inr (.inr ⟨hq, take_singleton_of_ne_nil hne⟩))

/-! ### A received symbol (30_encoding R66, 20_memory R48) -/

theorem rxFits_some (cap : { n : Nat // 1 ≤ n }) (len : Nat) : rxFits (some cap) len = decide (len < cap.1) := by
  have := cap.2
  simp only [rxFits, ← Bool.decide_or, decide_eq_decide]
  omega

theorem rxFits_none (len : Nat) : rxFits none len = true := Bool.or_true _

/-- Settles O46: a received symbol is its arrival, and an empty RXF has room under every capacity. -/
theorem receivedSymbolsArrive : Obligations.ReceivedSymbolsArrive := by
  unfold Obligations.ReceivedSymbolsArrive
  intro i b s hi
  have harrive : exec i s = .next (s.arrive b) := by
    simp only [List.mem_cons, Prod.mk.injEq, List.not_mem_nil, or_false] at hi
    rcases hi with ⟨rfl, rfl⟩ | ⟨rfl, rfl⟩ | ⟨rfl, rfl⟩ | ⟨rfl, rfl⟩ | ⟨rfl, rfl⟩ | ⟨rfl, rfl⟩ <;> rfl
  rw [harrive]
  unfold State.arrive State.arriveWith
  cases Config.rxCapacity with
  | none => rw [rxFits_none]
  | some cap => rw [rxFits_some]

end Sys2Proof.Machine

/-! ## A command of one send (42_link_sequencer R107, R108, R118) -/

namespace Sys2Proof.Machine

variable {s : State}

/-- RxRead of one byte with a byte in RXF (20 R47). -/
theorem State.rxRead_of_cons {b : Byte} {r : List Byte} (h : s.draw.fails = false) (hr : s.rxf = b :: r) (o : Label) :
    s.rxRead o .sp1 1 = { s with
      rxf := r, resp := b, reading := false, seq := .call o .sp2, hist := s.hist ++ [.rx [b]] } := by
  rcases State.rxRead_cases o .sp1 1 s with ⟨hf, -⟩ | ⟨-, -, e⟩ | ⟨-, hlt, -⟩
  · rw [h] at hf; cases hf
  · rw [e, State.readReturns, hr]; rfl
  · rw [hr] at hlt; exact absurd hlt (by simp)

/-- The Core executes the command `i`, with no ABORT due and no primitive failing. -/
structure State.Executes (i : Instr) (s : State) : Prop where
  busy    : s.busy = true
  cmd     : s.cmd.map decodeCommand = some i.core
  noAbort : s.abortDue = false
  noFail  : s.draw.fails = false

/-- The command `i` consists of the one send of `p` within its step `o`: its steps are those of SEND_PACKET_SEQ, and it
completes with the verdict. -/
def SendsOnce (i : Instr) (o : Label) (p : Payload) : Prop :=
  ∀ (c : SubLabel) (s : State), s.Executes i → s.seq = .call o c → exec i s = sendSeq o p State.complete c s

section
variable {i : Instr} {o : Label} {p : Payload} (hi : SendsOnce i o p)
include hi

theorem SendsOnce.sp0 (hs : s.Executes i) (hq : s.seq = .call o .sp0) : exec i s = .next { s with
    pktBuf := buildPacket p, crcAcc := crc8 (payloadBytes p), tx := s.tx ++ packetBytes (buildPacket p)
    seq := .call o .sp1, hist := s.hist ++ [.tx (packetBytes (buildPacket p))] } :=
  (hi .sp0 s hs hq).trans (congrArg Host.Outcome.next (State.stepSp0_of_ok hs.noFail o p))

theorem SendsOnce.sp1 {b : Byte} {r : List Byte} (hs : s.Executes i) (hq : s.seq = .call o .sp1)
    (hr : s.rxf = b :: r) : exec i s = .next { s with
      rxf := r, resp := b, reading := false, seq := .call o .sp2, hist := s.hist ++ [.rx [b]] } :=
  (hi .sp1 s hs hq).trans (congrArg Host.Outcome.next (State.rxRead_of_cons hs.noFail hr o))

theorem SendsOnce.sp2 {op : OpCode} (hs : s.Executes i) (hq : s.seq = .call o .sp2) (hop : s.cmdOp = op)
    (hne : op ≠ opTeardown) : exec i s = .next { s with
      sync := if s.resp = 0x90#8 then .synced else .outOfSync
      result := if s.resp = 0x90#8 then true else false, busy := false, seq := .idle
      hist := s.hist ++ [.done op (if s.resp = 0x90#8 then true else false)] } := by
  refine (hi .sp2 s hs hq).trans (congrArg Host.Outcome.next (State.stepSp2_complete ?_ hop hne))
  split <;> rfl

/-- From an idle Core with a byte in RXF a command of one send runs in acceptance, SP0, SP1 and SP2, and the oldest byte
of RXF gives the verdict. -/
theorem SendsOnce.run {d : Descriptor} {b : Byte} {r : List Byte} (hd : encodeCommand i = some d)
    (hfirst : firstStep d.op = .call o .sp0) (hne : d.op ≠ opTeardown) (hres : opReserved d.op = false)
    (hok : operandsOk d = true) (hs : s.linkReady) (hrxf : s.rxf = b :: r) :
    ∃ t1 t2 t3, exec i s = .next t1 ∧ exec i t1 = .next t2 ∧ exec i t2 = .next t3 ∧ exec i t3 = .next { s with
      cmd := some (s.offered i.core d), port := s.portAfter i.core, reading := false
      pktBuf := buildPacket p, crcAcc := crc8 (payloadBytes p), tx := s.tx ++ packetBytes (buildPacket p)
      rxf := r, resp := b, sync := if b = 0x90#8 then .synced else .outOfSync
      result := if b = 0x90#8 then true else false, busy := false, seq := .idle
      hist := s.hist ++ [.tx (packetBytes (buildPacket p)), .rx [b],
        .done d.op (if b = 0x90#8 then true else false)] } := by
  obtain ⟨hready, hlink, hf⟩ := hs
  have hdec := decodeCommand_encodeCommand hd
  have hcmd : (some (s.offered i.core d)).map decodeCommand = some i.core :=
    congrArg some (State.offered_decode hdec s)
  have habort (x : Bool) : (s.abortReq && x) = false := by rw [hready.2.2]; rfl
  have hbegin := exec_begins hd hdec hready (fun _ => hlink) hres hok
  rw [hfirst] at hbegin
  refine ⟨_, _, _, hbegin, hi.sp0 ⟨rfl, hcmd, habort _, hf⟩ rfl, hi.sp1 ⟨rfl, hcmd, habort _, hf⟩ rfl hrxf, ?_⟩
  refine Eq.trans (hi.sp2 ⟨rfl, hcmd, habort _, hf⟩ rfl (State.offered_eq hdec s).1 hne) ?_
  simp only [List.append_assoc, List.cons_append, List.nil_append]

end

theorem sendsOnce_release : SendsOnce .release .c0 (decodeState neutralState) := by
  intro c s hs hq
  refine (runCommand_executing hs.busy hs.cmd hs.noAbort).trans ?_
  unfold stepSendCommand
  rw [hq]

/-- The neutral state's payload is the neutral payload, whatever the stick unit and the dpad flags: no flag is set and
both intensities are 0 (00 R19, 40 R83, R85). -/
theorem decodeState_neutralState : decodeState neutralState = neutralPayload := rfl

/-- Settles O29: RELEASE is SEND_COMMAND 0 by definition, and its run is that of a send of the neutral payload. -/
theorem releaseRun : Obligations.ReleaseRun := by
  unfold Obligations.ReleaseRun
  refine ⟨fun s => rfl, fun b r s hs hrxf => ?_⟩
  have hrun := sendsOnce_release.run rfl rfl (by decide) rfl (by decide) hs hrxf
  rw [decodeState_neutralState, buildPacket_neutral, crc8_neutral] at hrun
  exact hrun

end Sys2Proof.Machine

/-! ## The computed POLAR against the real formula (40_payload_encoder R84; log 12) -/

namespace Sys2Proof.Machine

/-! ### The enclosure of one coordinate -/

theorem floor_cast_real (q : ℚ) : q.floor = ⌊(q : ℝ)⌋ := (Rat.floor_cast q).symm

theorem ceil_cast_real (q : ℚ) : q.ceil = ⌈(q : ℝ)⌉ := (Rat.ceil_eq_neg_floor_neg q).trans (Rat.ceil_cast q).symm

theorem scaled_cast (v : ℚ) (i : Byte) : ((scaled v i : ℚ) : ℝ) = (v : ℝ) * 127 * (i.toNat : ℝ) / 255 := by
  unfold scaled
  push_cast
  rfl

/-- An intensity scales to between 0 and the whole radius, 127. -/
theorem scale_range (i : Byte) : (0 : ℝ) ≤ 127 * (i.toNat : ℝ) / 255 ∧ 127 * (i.toNat : ℝ) / 255 ≤ 127 := by
  have hi : (i.toNat : ℝ) ≤ 255 := by exact_mod_cast Nat.le_of_lt_succ i.isLt
  exact ⟨by positivity, by linarith⟩

section
variable {c : ℝ} {v slack : ℚ} (hv : |c - (v : ℝ)| ≤ (slack : ℝ)) (h0 : -1 ≤ c) (h1 : c ≤ 1)
include hv h0 h1

/-- The low end of the enclosure of a cosine or sine. -/
theorem clampUnit_low : c - 2 * slack ≤ (clampUnit (v - slack) : ℝ) ∧ (clampUnit (v - slack) : ℝ) ≤ c := by
  obtain ⟨hl, hu⟩ := abs_le.mp hv
  unfold clampUnit
  push_cast
  exact ⟨le_max_of_le_right (le_min (by linarith) (by linarith)), max_le h0 (min_le_of_right_le (by linarith))⟩

/-- The high end of the enclosure of a cosine or sine. -/
theorem clampUnit_high : c ≤ (clampUnit (v + slack) : ℝ) ∧ (clampUnit (v + slack) : ℝ) ≤ c + 2 * slack := by
  obtain ⟨hl, hu⟩ := abs_le.mp hv
  unfold clampUnit
  push_cast
  exact ⟨le_max_of_le_right (le_min h1 (by linarith)), max_le (by linarith) (min_le_of_right_le (by linarith))⟩

theorem scaled_low (i : Byte) : c * 127 * (i.toNat : ℝ) / 255 - 254 * slack ≤ (scaled (clampUnit (v - slack)) i : ℝ) ∧
    (scaled (clampUnit (v - slack)) i : ℝ) ≤ c * 127 * (i.toNat : ℝ) / 255 := by
  obtain ⟨hl, hu⟩ := clampUnit_low hv h0 h1
  obtain ⟨hs0, hs1⟩ := scale_range i
  rw [scaled_cast]
  constructor <;> nlinarith

theorem scaled_high (i : Byte) : c * 127 * (i.toNat : ℝ) / 255 ≤ (scaled (clampUnit (v + slack)) i : ℝ) ∧
    (scaled (clampUnit (v + slack)) i : ℝ) ≤ c * 127 * (i.toNat : ℝ) / 255 + 254 * slack := by
  obtain ⟨hl, hu⟩ := clampUnit_high hv h0 h1
  obtain ⟨hs0, hs1⟩ := scale_range i
  rw [scaled_cast]
  constructor <;> nlinarith

/-- The choice has both neighbours of the exact value to choose from. -/
theorem polarOffset_of_neighbour {x : ℤ} {i : Byte}
    (hx : x = ⌊c * 127 * (i.toNat : ℝ) / 255⌋ ∨ x = ⌈c * 127 * (i.toNat : ℝ) / 255⌉) : polarOffset v slack i x = x := by
  have hlow := Int.floor_le_floor (scaled_low hv h0 h1 i).2
  have hhigh := Int.ceil_le_ceil (scaled_high hv h0 h1 i).1
  have hle := Int.floor_le_ceil (c * 127 * (i.toNat : ℝ) / 255)
  unfold polarOffset
  rw [floor_cast_real, ceil_cast_real]
  exact clampInt_of_mem (by omega) (by omega)

/-- No choice leaves the neighbours of the exact value by more than the width of the enclosure. -/
theorem polarOffset_between (i : Byte) (k : ℤ) :
    ⌊c * 127 * (i.toNat : ℝ) / 255 - 254 * slack⌋ ≤ polarOffset v slack i k ∧
      polarOffset v slack i k ≤ ⌈c * 127 * (i.toNat : ℝ) / 255 + 254 * slack⌉ := by
  obtain ⟨hl, hl'⟩ := scaled_low hv h0 h1 i
  obtain ⟨hu', hu⟩ := scaled_high hv h0 h1 i
  have hlow := Int.floor_le_floor hl
  have hhigh := Int.ceil_le_ceil hu
  have hle := (Int.floor_le_floor (hl'.trans hu')).trans (Int.floor_le_ceil _)
  have hk := clampInt_bounds (v := k) hle
  unfold polarOffset
  rw [floor_cast_real, ceil_cast_real]
  omega

theorem polarOffset_range (i : Byte) (k : ℤ) : -127 ≤ polarOffset v slack i k ∧ polarOffset v slack i k ≤ 127 := by
  have hle := (scaled_low hv h0 h1 i).2.trans (scaled_high hv h0 h1 i).1
  have hunit : ∀ w : ℚ, -127 ≤ ⌊(scaled (clampUnit w) i : ℝ)⌋ ∧ ⌈(scaled (clampUnit w) i : ℝ)⌉ ≤ 127 := by
    intro w
    rw [scaled_cast]
    obtain ⟨hw0, hw1⟩ := clampUnit_bounds w
    exact scaled_range (by exact_mod_cast hw0) (by exact_mod_cast hw1) i
  have hk := clampInt_bounds (v := k) ((Int.floor_le_floor hle).trans (Int.floor_le_ceil _))
  have hlow := (hunit (v - slack)).1
  have hhigh := (hunit (v + slack)).2
  unfold polarOffset
  rw [floor_cast_real, ceil_cast_real]
  omega

end

/-! ### Both coordinates -/

@[simp] theorem polarOffset_zero (v slack : ℚ) (k : ℤ) : polarOffset v slack 0#8 k = 0 := by
  have h : ∀ w, scaled w 0#8 = 0 := fun w => by simp [scaled]
  have h0 : (0 : ℚ).floor = 0 ∧ (0 : ℚ).ceil = 0 := ⟨rfl, rfl⟩
  simp only [polarOffset, h, clampInt, h0]
  omega

/-- At intensity 0 both offsets are 0, so that the center needs no case of its own. -/
theorem polarWith_eq (choice : ℚ → Byte → ℤ × ℤ) (t : ℚ) (i : Byte) : polarWith choice t i =
    (BitVec.ofInt 8 (128 + polarOffset (cosDeg t) (trigSlack t) i (choice t i).1),
     BitVec.ofInt 8 (128 - polarOffset (sinDeg t) (trigSlack t) i (choice t i).2)) := by
  unfold polarWith
  split
  · next h => subst h; simp only [polarOffset_zero]; rfl
  · rfl

section
variable {t : ℚ} (ht0 : 0 ≤ t) (ht1 : t < 360)
include ht0 ht1

theorem polarWith_fst (choice : ℚ → Byte → ℤ × ℤ) (i : Byte) :
    ((polarWith choice t i).1.toNat : ℤ) - 128 = polarOffset (cosDeg t) (trigSlack t) i (choice t i).1 := by
  rw [polarWith_eq, toNat_ofInt_center
    (polarOffset_range (cosDeg_close ht0 ht1) (Real.neg_one_le_cos _) (Real.cos_le_one _) _ _)]
  ring

theorem polarWith_snd (choice : ℚ → Byte → ℤ × ℤ) (i : Byte) :
    128 - ((polarWith choice t i).2.toNat : ℤ) = polarOffset (sinDeg t) (trigSlack t) i (choice t i).2 := by
  have hr := polarOffset_range (sinDeg_close ht0 ht1) (Real.neg_one_le_sin _) (Real.sin_le_one _) i (choice t i).2
  have hbyte := toNat_ofInt_center (x := -polarOffset (sinDeg t) (trigSlack t) i (choice t i).2) (by omega)
  rw [← sub_eq_add_neg] at hbyte
  rw [polarWith_eq, hbyte]
  ring

end

theorem trigSlack_width (t : ℚ) : (254 : ℝ) * trigSlack t ≤ 1 / 10 ^ 12 := by
  unfold trigSlack
  split <;> norm_num

/-! ### At whole degrees the enclosure holds no other integer -/

/-- sin of `k` degrees in units of 10^-9, rounded down. -/
def sinNano (k : ℕ) : ℕ := (sinQuarter (k : ℚ) * 1000000000).floor.toNat

/-- `p 10^-9 i / 255` is farther than 10^-6 from every integer. -/
def nanoApart (p i : ℕ) : Bool := Nat.blt 510000 ((p * i + 255000) % 255000000000)

/-- The computation behind the exactness: every angle strictly inside a quarter, every intensity above 0. -/
theorem sinNano_apart :
    ∀ k ∈ List.range' 1 89, (List.range' 1 255).all (nanoApart (127 * sinNano k)) = true := by decide +kernel

theorem sinNano_close {k : ℕ} (hk : k ≤ 90) :
    |Real.sin ((k : ℝ) * Real.pi / 180) - (sinNano k : ℝ) / 10 ^ 9| ≤ 2 / 10 ^ 9 := by
  have hs := sinQuarter_close (r := (k : ℚ)) (by positivity) (by exact_mod_cast hk)
  rw [Rat.cast_natCast] at hs
  have hpos : 0 ≤ Real.sin ((k : ℝ) * Real.pi / 180) := by
    have hk' : (k : ℝ) ≤ 90 := by exact_mod_cast hk
    exact Real.sin_nonneg_of_nonneg_of_le_pi (by positivity) (by nlinarith [Real.pi_pos])
  have hfl : (sinNano k : ℝ) = max ((⌊(sinQuarter k : ℝ) * 10 ^ 9⌋ : ℤ) : ℝ) 0 := by
    unfold sinNano
    rw [floor_cast_real, ← Int.cast_natCast, Int.toNat_eq_max]
    push_cast
    norm_num
  have h1 := Int.floor_le ((sinQuarter k : ℝ) * 10 ^ 9)
  have h2 := Int.lt_floor_add_one ((sinQuarter k : ℝ) * 10 ^ 9)
  rw [abs_le] at hs ⊢
  rw [hfl]
  generalize ((⌊(sinQuarter k : ℝ) * 10 ^ 9⌋ : ℤ) : ℝ) = f at *
  rcases max_cases f 0 with ⟨h, h'⟩ | ⟨h, h'⟩ <;> rw [h] <;> constructor <;> linarith

theorem scaled_sinNano_close {k : ℕ} (hk : k ≤ 90) (i : Byte) :
    |((127 * sinNano k : ℕ) : ℝ) / 10 ^ 9 * i.toNat / 255 -
      Real.sin ((k : ℝ) * Real.pi / 180) * 127 * (i.toNat : ℝ) / 255| ≤ 254 / 10 ^ 9 := by
  obtain ⟨hs0, hs1⟩ := scale_range i
  have he : ((127 * sinNano k : ℕ) : ℝ) / 10 ^ 9 * i.toNat / 255 -
      Real.sin ((k : ℝ) * Real.pi / 180) * 127 * (i.toNat : ℝ) / 255 =
      -(Real.sin ((k : ℝ) * Real.pi / 180) - sinNano k / 10 ^ 9) * (127 * (i.toNat : ℝ) / 255) := by
    push_cast
    ring
  rw [he, abs_mul, abs_neg, abs_of_nonneg hs0]
  exact (mul_le_mul (sinNano_close hk) hs1 hs0 (by norm_num)).trans (by norm_num)

theorem nanoApart_le {p i : ℕ} (h : nanoApart p i = true) (n : ℤ) :
    (1 : ℝ) / 10 ^ 6 ≤ |(p : ℝ) / 10 ^ 9 * i / 255 - n| := by
  have hm : 510000 < (p * i + 255000) % 255000000000 := Nat.blt_eq.mp h
  have hZ : 255000 ≤ |((p * i : ℕ) : ℤ) - 255000000000 * n| := by
    generalize p * i = m at hm
    rw [le_abs]
    omega
  have hR : (255000 : ℝ) ≤ |(p : ℝ) * i - 255000000000 * n| := by exact_mod_cast hZ
  have he : (p : ℝ) / 10 ^ 9 * i / 255 - n = ((p : ℝ) * i - 255000000000 * n) / 255000000000 := by ring
  rw [he, abs_div, abs_of_pos (by norm_num : (0 : ℝ) < 255000000000), le_div_iff₀ (by norm_num)]
  linarith

/-- Scaled by any intensity above 0, the number stays farther than the enclosure's width from every integer. -/
def ScalesApart (c : ℝ) : Prop :=
  ∀ i : Byte, i ≠ 0#8 → ∀ n : ℤ, 1 / 10 ^ 12 < |c * 127 * (i.toNat : ℝ) / 255 - n|

theorem ScalesApart.neg {c : ℝ} (h : ScalesApart c) : ScalesApart (-c) := by
  intro i hi n
  have hn := h i hi (-n)
  rw [← abs_neg] at hn
  convert hn using 2
  push_cast
  ring

theorem sin_scalesApart_quarter {k : ℕ} (h0 : 0 < k) (h1 : k < 90) :
    ScalesApart (Real.sin ((k : ℝ) * Real.pi / 180)) := by
  intro i hi n
  have hi0 : i.toNat ≠ 0 := fun h => hi (BitVec.eq_of_toNat_eq h)
  have hi1 := i.isLt
  have happ : nanoApart (127 * sinNano k) i.toNat = true :=
    List.all_eq_true.mp (sinNano_apart k (List.mem_range'_1.mpr ⟨h0, by omega⟩)) _
      (List.mem_range'_1.mpr ⟨by omega, by omega⟩)
  have htri := (nanoApart_le happ n).trans
    (abs_sub_le _ (Real.sin ((k : ℝ) * Real.pi / 180) * 127 * (i.toNat : ℝ) / 255) _)
  have hclose := scaled_sinNano_close h1.le i
  have hnum : (1 : ℝ) / 10 ^ 12 + 254 / 10 ^ 9 < 1 / 10 ^ 6 := by norm_num
  linarith

/-- By its symmetries the sine of a whole degree off the axes is, up to its sign, one of the first quarter's. -/
theorem sin_scalesApart {a : ℤ} (ha : a % 90 ≠ 0) : ScalesApart (Real.sin ((a : ℝ) * Real.pi / 180)) := by
  obtain ⟨k, hk⟩ := Int.eq_ofNat_of_zero_le (Int.emod_nonneg a (by decide : (180 : ℤ) ≠ 0))
  have hsplit : (a : ℝ) * Real.pi / 180 = (k : ℝ) * Real.pi / 180 + ((a / 180 : ℤ) : ℝ) * Real.pi := by
    have h : (a : ℝ) = ((k + 180 * (a / 180) : ℤ) : ℝ) := by congr 1; omega
    rw [h]
    push_cast
    ring
  have hhalf : ScalesApart (Real.sin ((k : ℝ) * Real.pi / 180)) := by
    rcases Nat.lt_or_ge k 90 with h | h
    · exact sin_scalesApart_quarter (by omega) h
    · have h' := sin_scalesApart_quarter (k := 180 - k) (by omega) (by omega)
      rw [← Real.sin_pi_sub]
      convert h' using 2
      rw [Nat.cast_sub (by omega)]
      push_cast
      ring
  rw [hsplit, Real.sin_add_int_mul_pi, neg_one_zpow_eq_ite]
  split
  · rwa [one_mul]
  · rw [neg_one_mul]; exact hhalf.neg

theorem cos_scalesApart {a : ℤ} (ha : a % 90 ≠ 0) : ScalesApart (Real.cos ((a : ℝ) * Real.pi / 180)) := by
  have h := sin_scalesApart (a := 90 - a) (by omega)
  rw [← Real.sin_pi_div_two_sub]
  convert h using 2
  push_cast
  ring

theorem trigSlack_axis {a : ℤ} (ha : a % 90 = 0) : trigSlack (a : ℚ) = 0 := by
  obtain ⟨j, rfl⟩ := Int.dvd_of_emod_eq_zero ha
  have hq : quadrant ((90 * j : ℤ) : ℚ) = j := by
    unfold quadrant
    rw [Int.cast_mul, Int.cast_ofNat, mul_div_cancel_left₀ _ (by norm_num), Rat.floor_intCast]
  unfold trigSlack
  rw [hq, if_pos (by push_cast; rfl)]

/-- An integer within a small width of the neighbours of a number that is farther than that from every integer is one
of the neighbours. -/
theorem floor_or_ceil_of_near {x : ℤ} {r w : ℝ} (h : ⌊r - w⌋ ≤ x ∧ x ≤ ⌈r + w⌉)
    (hw : w = 0 ∨ ∀ n : ℤ, w < |r - n|) : x = ⌊r⌋ ∨ x = ⌈r⌉ := by
  obtain ⟨hl, hu⟩ := h
  have hlow : ⌊r⌋ ≤ x := by
    refine le_trans (Int.le_floor.mpr ?_) hl
    rcases hw with rfl | hw
    · rw [sub_zero]; exact Int.floor_le r
    · have := hw ⌊r⌋
      rw [abs_of_nonneg (sub_nonneg.mpr (Int.floor_le r))] at this
      linarith
  have hhigh : x ≤ ⌈r⌉ := by
    refine le_trans hu (Int.ceil_le.mpr ?_)
    rcases hw with rfl | hw
    · rw [add_zero]; exact Int.le_ceil r
    · have := hw ⌈r⌉
      rw [abs_of_nonpos (sub_nonpos.mpr (Int.le_ceil r))] at this
      linarith
  have := Int.ceil_le_floor_add_one r
  omega

/-- One coordinate of the computed POLAR at a whole degree: exact on the axes, and elsewhere no integer lies within the
enclosure. -/
theorem polarOffset_floor_or_ceil {a : ℤ} {c : ℝ} {v : ℚ} {i : Byte} (hv : |c - (v : ℝ)| ≤ (trigSlack (a : ℚ) : ℝ))
    (h0 : -1 ≤ c) (h1 : c ≤ 1) (hapart : a % 90 ≠ 0 → ScalesApart c) (k : ℤ) :
    polarOffset v (trigSlack a) i k = ⌊c * 127 * (i.toNat : ℝ) / 255⌋ ∨
      polarOffset v (trigSlack a) i k = ⌈c * 127 * (i.toNat : ℝ) / 255⌉ := by
  by_cases hi : i = 0#8
  · subst hi; simp
  · refine floor_or_ceil_of_near (polarOffset_between hv h0 h1 i k) ?_
    by_cases ha : a % 90 = 0
    · exact .inl (by rw [trigSlack_axis ha]; norm_num)
    · exact .inr fun n => (trigSlack_width _).trans_lt (hapart ha i hi n)

/-- The computed POLAR meets P2 at every whole degree of a turn (40 R84). -/
theorem polarWith_rounds {a : ℤ} (h0 : 0 ≤ a) (h1 : a < 360) (choice : ℚ → Byte → ℤ × ℤ) (i : Byte) :
    PolarRounds a i (polarWith choice a i) := by
  have ht0 : (0 : ℚ) ≤ a := by exact_mod_cast h0
  have ht1 : (a : ℚ) < 360 := by exact_mod_cast h1
  have hc := cosDeg_close ht0 ht1
  have hs := sinDeg_close ht0 ht1
  rw [Rat.cast_intCast] at hc hs
  unfold PolarRounds
  rw [polarWith_fst ht0 ht1, polarWith_snd ht0 ht1]
  exact ⟨polarOffset_floor_or_ceil hc (Real.neg_one_le_cos _) (Real.cos_le_one _) cos_scalesApart _,
    polarOffset_floor_or_ceil hs (Real.neg_one_le_sin _) (Real.sin_le_one _) sin_scalesApart _⟩

end Sys2Proof.Machine

/-! ## The stick unit (40_payload_encoder R84 to R88) -/

namespace Sys2Proof.Machine

/-! ### Every use of POLAR meets P2 -/

theorem polarRounds_center (theta : ℝ) : PolarRounds theta 0#8 (stickCenter, stickCenter) := by
  simp [PolarRounds, stickCenter]

section
variable {theta : ℝ} {i : Byte} {xy : Byte × Byte}

/-- Where the real formula gives an integer, P2 leaves one value. -/
theorem polarRounds_fst_eq {n : ℤ} (h : PolarRounds theta i xy)
    (hn : Real.cos (theta * Real.pi / 180) * 127 * (i.toNat : ℝ) / 255 = n) : xy.1 = BitVec.ofInt 8 (128 + n) := by
  have hx := h.1
  rw [hn, Int.floor_intCast, Int.ceil_intCast, or_self] at hx
  rw [← hx, add_sub_cancel, BitVec.ofInt_natCast, BitVec.ofNat_toNat, BitVec.setWidth_eq]

theorem polarRounds_snd_eq {n : ℤ} (h : PolarRounds theta i xy)
    (hn : Real.sin (theta * Real.pi / 180) * 127 * (i.toNat : ℝ) / 255 = n) : xy.2 = BitVec.ofInt 8 (128 - n) := by
  have hy := h.2
  rw [hn, Int.floor_intCast, Int.ceil_intCast, or_self] at hy
  rw [← hy, sub_sub_cancel, BitVec.ofInt_natCast, BitVec.ofNat_toNat, BitVec.setWidth_eq]

theorem polarRounds_zero (h : PolarRounds theta 0#8 xy) : xy = (0x80#8, 0x80#8) :=
  Prod.ext (polarRounds_fst_eq (n := 0) h (by simp)) (polarRounds_snd_eq (n := 0) h (by simp))

theorem polarRounds_fst_of_cos (h : PolarRounds theta i xy) (hc : Real.cos (theta * Real.pi / 180) = (0 : ℤ)) :
    xy.1 = 0x80#8 := polarRounds_fst_eq (n := 0) h (by simp [hc])

theorem polarRounds_snd_of_sin (h : PolarRounds theta i xy) (hs : Real.sin (theta * Real.pi / 180) = (0 : ℤ)) :
    xy.2 = 0x80#8 := polarRounds_snd_eq (n := 0) h (by simp [hs])

/-- Full intensity at an angle whose cosine and sine are integers. -/
theorem polarRounds_full {c d : ℤ} (h : PolarRounds theta 0xFF#8 xy) (hc : Real.cos (theta * Real.pi / 180) = c)
    (hs : Real.sin (theta * Real.pi / 180) = d) :
    xy = (BitVec.ofInt 8 (128 + 127 * c), BitVec.ofInt 8 (128 - 127 * d)) :=
  Prod.ext (polarRounds_fst_eq h (by rw [hc]; push_cast; norm_num; ring))
    (polarRounds_snd_eq h (by rw [hs]; push_cast; norm_num; ring))

end

/-- P2 asks the same of angles a whole number of turns apart. -/
theorem polarRounds_add_turns (theta : ℝ) (k : ℤ) (i : Byte) (xy : Byte × Byte) :
    PolarRounds (theta + 360 * k) i xy ↔ PolarRounds theta i xy := by
  have h : (theta + 360 * k) * Real.pi / 180 = theta * Real.pi / 180 + k * (2 * Real.pi) := by ring
  unfold PolarRounds
  rw [h, Real.cos_add_int_mul_two_pi, Real.sin_add_int_mul_two_pi]

theorem cast_emod_turn (a : ℤ) : (a : ℝ) = ((a % 360 : ℤ) : ℝ) + 360 * ((a / 360 : ℤ) : ℝ) := by
  exact_mod_cast (Int.emod_add_mul_ediv a 360).symm

section
variable (unit : Option PolarUnit) (choice : ℚ → Byte → ℤ × ℤ)

/-- Whatever the stick unit, `POLAR` at an integer angle is an exact floor or ceiling in each coordinate. -/
theorem polarDegreesWith_rounds (a : ℤ) (i : Byte) : PolarRounds a i (polarDegreesWith unit choice a i) := by
  unfold polarDegreesWith
  split
  · next hi => subst hi; exact polarRounds_center _
  rw [cast_emod_turn a, polarRounds_add_turns]
  cases unit with
  | some u => exact u.rounds _ i
  | none => exact polarWith_rounds (Int.emod_nonneg a (by decide)) (Int.emod_lt_of_pos a (by decide)) choice i

/-- The reading of the angle fields that a stick unit makes (40 R89). -/
def fieldReading : Option PolarUnit → BitVec 12 → ℝ
  | some u => u.angleOfField
  | none => angleDegrees

theorem polarFieldWith_rounds (f : BitVec 12) (i : Byte) :
    PolarRounds (fieldReading unit f) i (polarFieldWith unit choice f i) := by
  unfold polarFieldWith
  split
  · next hi => subst hi; exact polarRounds_center _
  cases unit with
  | some u => exact u.rounds _ i
  | none =>
    have h := polarDegreesWith_rounds none choice (f.toNat : ℤ) i
    rwa [Int.cast_natCast] at h

end

/-- Settles O20: both uses of POLAR meet P2, in a computed unit because no integer lies within the enclosure. -/
theorem polarExactAtWholeDegrees : Obligations.PolarExactAtWholeDegrees := by
  unfold Obligations.PolarExactAtWholeDegrees
  intro unit choice
  refine ⟨?_, fieldReading unit, ?_⟩
  · rintro a i _ _ _ _ rfl rfl rfl rfl
    exact polarDegreesWith_rounds unit choice a i
  · rintro f i _ _ _ _ rfl rfl rfl rfl
    exact polarFieldWith_rounds unit choice f i

/-- Settles O18: what P2 admits lies in 1 to 255. -/
theorem polarInRange : Obligations.PolarInRange := by
  unfold Obligations.PolarInRange
  exact fun unit choice i => ⟨fun a => polarRounds_range (polarDegreesWith_rounds unit choice a i),
    fun f => polarRounds_range (polarFieldWith_rounds unit choice f i)⟩

/-- Settles O15: at intensity 0 P2 leaves the center alone. -/
theorem polarZeroIntensity : Obligations.PolarZeroIntensity := by
  unfold Obligations.PolarZeroIntensity
  exact ⟨fun u theta => polarRounds_zero (u.rounds theta 0#8), fun unit choice =>
    ⟨fun a => polarRounds_zero (polarDegreesWith_rounds unit choice a 0#8),
      fun f => polarRounds_zero (polarFieldWith_rounds unit choice f 0#8)⟩⟩

/-- Settles O16: a stick unit's POLAR is periodic by P3, and an integer angle is reduced mod 360 before it is used. -/
theorem polarPeriodic : Obligations.PolarPeriodic := by
  unfold Obligations.PolarPeriodic
  refine ⟨fun u => u.periodic, fun unit choice a k i => ?_⟩
  unfold polarDegreesWith
  rw [Int.add_mul_emod_self_left]

/-! ### The axes -/

theorem axis_angles : ((0 : ℤ) : ℝ) * Real.pi / 180 = 0 ∧ ((90 : ℤ) : ℝ) * Real.pi / 180 = Real.pi / 2 ∧
    ((180 : ℤ) : ℝ) * Real.pi / 180 = Real.pi ∧ ((270 : ℤ) : ℝ) * Real.pi / 180 = Real.pi / 2 + Real.pi := by
  refine ⟨?_, ?_, ?_, ?_⟩ <;> push_cast <;> ring

theorem cos_axes : Real.cos ((0 : ℤ) * Real.pi / 180) = (1 : ℤ) ∧ Real.cos ((90 : ℤ) * Real.pi / 180) = (0 : ℤ) ∧
    Real.cos ((180 : ℤ) * Real.pi / 180) = (-1 : ℤ) ∧ Real.cos ((270 : ℤ) * Real.pi / 180) = (0 : ℤ) := by
  obtain ⟨h0, h90, h180, h270⟩ := axis_angles
  rw [h0, h90, h180, h270, Real.cos_add_pi]
  simp

theorem sin_axes : Real.sin ((0 : ℤ) * Real.pi / 180) = (0 : ℤ) ∧ Real.sin ((90 : ℤ) * Real.pi / 180) = (1 : ℤ) ∧
    Real.sin ((180 : ℤ) * Real.pi / 180) = (0 : ℤ) ∧ Real.sin ((270 : ℤ) * Real.pi / 180) = (-1 : ℤ) := by
  obtain ⟨h0, h90, h180, h270⟩ := axis_angles
  rw [h0, h90, h180, h270, Real.sin_add_pi]
  simp

/-- Settles O17: on the axes the real formula gives integers at full intensity, and 0 across the axis at every one. -/
theorem polarOnTheAxes : Obligations.PolarOnTheAxes := by
  unfold Obligations.PolarOnTheAxes
  rintro unit choice _ rfl
  have h := polarDegreesWith_rounds unit choice
  obtain ⟨c0, c90, c180, c270⟩ := cos_axes
  obtain ⟨s0, s90, s180, s270⟩ := sin_axes
  exact ⟨polarRounds_full (h 0 _) c0 s0, polarRounds_full (h 90 _) c90 s90, polarRounds_full (h 180 _) c180 s180,
    polarRounds_full (h 270 _) c270 s270, fun i => ⟨polarRounds_snd_of_sin (h 0 i) s0,
      polarRounds_fst_of_cos (h 90 i) c90, polarRounds_snd_of_sin (h 180 i) s180, polarRounds_fst_of_cos (h 270 i) c270⟩⟩

/-! ### No admissible POLAR is excluded -/

/-- The computed POLAR, left its choice of the neighbours of the exact value (40 R84 P2). -/
theorem polarWith_of_neighbours {t : ℚ} {i : Byte} {x y : ℤ} (ht0 : 0 ≤ t) (ht1 : t < 360)
    (hx : x = ⌊Real.cos (t * Real.pi / 180) * 127 * (i.toNat : ℝ) / 255⌋ ∨
      x = ⌈Real.cos (t * Real.pi / 180) * 127 * (i.toNat : ℝ) / 255⌉)
    (hy : y = ⌊Real.sin (t * Real.pi / 180) * 127 * (i.toNat : ℝ) / 255⌋ ∨
      y = ⌈Real.sin (t * Real.pi / 180) * 127 * (i.toNat : ℝ) / 255⌉) :
    polarWith (fun _ _ => (x, y)) t i = (BitVec.ofInt 8 (128 + x), BitVec.ofInt 8 (128 - y)) := by
  rw [polarWith_eq,
    polarOffset_of_neighbour (cosDeg_close ht0 ht1) (Real.neg_one_le_cos _) (Real.cos_le_one _) hx,
    polarOffset_of_neighbour (sinDeg_close ht0 ht1) (Real.neg_one_le_sin _) (Real.sin_le_one _) hy]

/-- One coordinate of the computed POLAR at any angle, to the width 10^-12 (log 12). -/
theorem polarOffset_near {t : ℚ} {c : ℝ} {v : ℚ} (hv : |c - (v : ℝ)| ≤ (trigSlack t : ℝ)) (h0 : -1 ≤ c) (h1 : c ≤ 1)
    (i : Byte) (k : ℤ) : ⌊c * 127 * (i.toNat : ℝ) / 255 - 1 / 10 ^ 12⌋ ≤ polarOffset v (trigSlack t) i k ∧
      polarOffset v (trigSlack t) i k ≤ ⌈c * 127 * (i.toNat : ℝ) / 255 + 1 / 10 ^ 12⌉ := by
  have hw := trigSlack_width t
  obtain ⟨hl, hu⟩ := polarOffset_between hv h0 h1 i k
  exact ⟨(Int.floor_le_floor (by linarith)).trans hl, hu.trans (Int.ceil_le_ceil (by linarith))⟩

/-- A reading and a POLAR within P1 to P4 are a stick unit, and the machine uses it as it is. -/
theorem exists_unit_eq (reading : BitVec 12 → ℝ) (polar : ℝ → Byte → Byte × Byte)
    (hrounds : ∀ theta i, PolarRounds theta i (polar theta i))
    (hperiodic : ∀ theta (k : ℤ) i, polar (theta + 360 * k) i = polar theta i) :
    ∃ unit : Option PolarUnit, ∀ choice,
      (∀ (a : ℤ) (i : Byte), polarDegreesWith unit choice a i = polar a i) ∧
      ∀ (f : BitVec 12) (i : Byte), polarFieldWith unit choice f i = polar (reading f) i := by
  refine ⟨some ⟨reading, polar, hrounds, hperiodic⟩, fun choice => ⟨fun a i => ?_, fun f i => ?_⟩⟩
  · unfold polarDegreesWith
    split
    · next hi => subst hi; exact (polarRounds_zero (hrounds a 0#8)).symm
    · rw [cast_emod_turn a, hperiodic]
  · unfold polarFieldWith
    split
    · next hi => subst hi; exact (polarRounds_zero (hrounds _ 0#8)).symm
    · rfl

/-- Settles O19: an admissible POLAR is a stick unit, and the computed one is held to its enclosure, which contains the
exact value and reaches no farther than 10^-12 from it. -/
theorem polarFollowsTheFormula : Obligations.PolarFollowsTheFormula := by
  unfold Obligations.PolarFollowsTheFormula
  refine ⟨exists_unit_eq, ?_⟩
  rintro t i _ _ ht0 ht1 rfl rfl
  refine ⟨fun x y hx hy => ⟨_, polarWith_of_neighbours ht0 ht1 hx hy⟩, fun choice => ?_⟩
  obtain ⟨hxl, hxu⟩ := polarOffset_near (cosDeg_close ht0 ht1) (Real.neg_one_le_cos _) (Real.cos_le_one _) i
    (choice t i).1
  obtain ⟨hyl, hyu⟩ := polarOffset_near (sinDeg_close ht0 ht1) (Real.neg_one_le_sin _) (Real.sin_le_one _) i
    (choice t i).2
  rw [polarWith_fst ht0 ht1, polarWith_snd ht0 ht1]
  exact ⟨hxl, hxu, hyl, hyu⟩

end Sys2Proof.Machine

/-! ## The dpad code and the payload of a ControllerState (40_payload_encoder R81 to R92) -/

namespace Sys2Proof.Machine

/-! ### The dpad code (40 R83) -/

section
variable (bits : Equiv.Perm (Fin 4)) (codes : Equiv.Perm (Fin 8))

theorem mem_allDirections (d : Direction) : d ∈ allDirections := by cases d <;> decide

/-- The legal flag values, for each of the 24 flag maps: neither 0 nor with a bit of [7:4], and no two alike. -/
theorem dirFlags_legal : ∀ bits : Equiv.Perm (Fin 4), ∀ d ∈ allDirections,
    dirFlags bits d ≠ 0#8 ∧ (dirFlags bits d).extractLsb' 4 4 = 0#4 ∧
      ∀ d' ∈ allDirections, dirFlags bits d = dirFlags bits d' → d = d' := by decide +kernel

theorem dirFlags_injective : Function.Injective (dirFlags bits) := fun d d' =>
  (dirFlags_legal bits d (mem_allDirections d)).2.2 d' (mem_allDirections d')

theorem dirIndex_injective : Function.Injective dirIndex :=
  Function.LeftInverse.injective (g := fun k => allDirections[k.val]) fun d => by cases d <;> rfl

theorem encodeDpadWith_dirFlags (d : Direction) :
    encodeDpadWith bits codes (dirFlags bits d) = BitVec.ofNat 8 (codes (dirIndex d)).val := by
  obtain ⟨hne, hhigh, -⟩ := dirFlags_legal bits d (mem_allDirections d)
  unfold encodeDpadWith
  rw [if_neg hne, if_neg (not_not_intro hhigh)]
  split
  · next d' hd' =>
    have h := List.find?_some hd'
    rw [dirFlags_injective bits (beq_iff_eq.mp h)]
  · next hnone =>
    exact absurd (beq_self_eq_true _) (List.find?_eq_none.mp hnone d (mem_allDirections d))

theorem encodeDpadWith_of_ne {f : Byte} (h : ∀ d, f ≠ dirFlags bits d) : encodeDpadWith bits codes f = 0x08#8 := by
  have hnone : allDirections.find? (fun d => dirFlags bits d == f) = none :=
    List.find?_eq_none.mpr fun d _ hd => h d (beq_iff_eq.mp hd).symm
  unfold encodeDpadWith
  rw [hnone]
  split
  · rfl
  · split <;> rfl

theorem ofNat_code_injective {k k' : Fin 8} (h : BitVec.ofNat 8 k.val = BitVec.ofNat 8 k'.val) : k = k' := by
  revert k k'
  decide

end

/-- Settles O13: a legal value is one direction's alone, and every other value finds no direction. -/
theorem dpadCodes : Obligations.DpadCodes := by
  unfold Obligations.DpadCodes
  intro bits codes
  refine ⟨rfl, encodeDpadWith_dirFlags bits codes, fun d d' h => ?_, fun f _ => encodeDpadWith_of_ne bits codes,
    fun f hf => encodeDpadWith_of_ne bits codes fun d hd => ?_⟩
  · rw [encodeDpadWith_dirFlags, encodeDpadWith_dirFlags] at h
    exact dirIndex_injective (codes.injective (ofNat_code_injective h))
  · exact hf (hd ▸ (dirFlags_legal bits d (mem_allDirections d)).2.1)

/-! ### The decoded payload (40 R90, R92) -/

@[simp] theorem polarField_zero (f : BitVec 12) : polarField f 0#8 = (stickCenter, stickCenter) := rfl

theorem polarField_range (f : BitVec 12) (i : Byte) : 0x01#8 ≤ (polarField f i).1 ∧ 0x01#8 ≤ (polarField f i).2 :=
  (polarInRange Config.polarUnit Config.polarChoice i).2 f

/-- `Decode(STATE)` by the fields of STATE (40 R90). -/
theorem decodeState_eq (v : BitVec 64) : decodeState v =
    { cmdHigh := v.extractLsb' 8 8, cmdLow := v.extractLsb' 0 8, dpad := encodeDpad (v.extractLsb' 16 8)
      leftX := (polarField (v.extractLsb' 32 12) (v.extractLsb' 24 8)).1
      leftY := (polarField (v.extractLsb' 32 12) (v.extractLsb' 24 8)).2
      rightX := (polarField (v.extractLsb' 52 12) (v.extractLsb' 44 8)).1
      rightY := (polarField (v.extractLsb' 52 12) (v.extractLsb' 44 8)).2, reserved := 0x00#8 } := rfl

/-- A state's button bits are its low 16. -/
theorem exists_state_of_buttons (high low : Byte) :
    ∃ v : BitVec 64, v.extractLsb' 8 8 = high ∧ v.extractLsb' 0 8 = low := by
  refine ⟨(high ++ low).setWidth 64, ?_, ?_⟩ <;> rw [BitVec.extractLsb'_setWidth_of_le (by decide)]
  · exact BitVec.extractLsb'_append_eq_left
  · exact BitVec.extractLsb'_append_eq_right

/-- Settles O23: the dpad code is at most the center's, POLAR is at least 1, and the button bytes are the low bits. -/
theorem decodedRanges : Obligations.DecodedRanges := by
  unfold Obligations.DecodedRanges
  refine ⟨fun v => ?_, exists_state_of_buttons⟩
  rw [decodeState_eq]
  obtain ⟨hlx, hly⟩ := polarField_range (v.extractLsb' 32 12) (v.extractLsb' 24 8)
  obtain ⟨hrx, hry⟩ := polarField_range (v.extractLsb' 52 12) (v.extractLsb' 44 8)
  exact ⟨encodeDpad_le _, hlx, hly, hrx, hry, rfl⟩

/-- Settles O24: every field but the angles is fixed, and at intensity 0 POLAR does not look at the angle. -/
theorem neutralDecodes : Obligations.NeutralDecodes := by
  unfold Obligations.NeutralDecodes
  refine ⟨fun v hb hd hl hr => ?_, decodeState_neutralState, rfl⟩
  have hbytes {start : ℕ} (h : start + 8 ≤ 16) : v.extractLsb' start 8 = 0#8 := by
    rw [← BitVec.extractLsb'_extractLsb'_of_le h, hb, BitVec.extractLsb'_zero]
  rw [decodeState_eq, hbytes (by decide), hbytes (by decide), hd, hl, hr, polarField_zero, polarField_zero]
  rfl

/-! ### The commands (40 R80) -/

/-- The step E0 of the command `i` writes what `f` computes and completes. -/
def ComputesAtE0 (i : Instr) (f : State → State) : Prop :=
  ∀ s : State, s.busy = true → s.cmd.map decodeCommand = some i.core → s.abortDue = false → s.seq = .at .e0 →
    exec i s = .next ((f s).complete true)

theorem computesAtE0_encodeDpad (flags : Byte) :
    ComputesAtE0 (.encodeDpad flags) fun s => { s with outDpad := encodeDpad flags } := by
  intro s hb hc ha hq
  refine (runCommand_executing hb hc ha).trans ?_
  unfold stepEncodeDpad
  split
  · rfl
  · next h => exact absurd hq h

theorem computesAtE0_polarToCartesian (angle : ℤ) (intensity : Byte) :
    ComputesAtE0 (.polarToCartesian angle intensity)
      fun s => { s with outXY := polarDegrees (angle % 360) intensity } := by
  intro s hb hc ha hq
  refine (runCommand_executing hb hc ha).trans ?_
  unfold stepPolarToCartesian
  split
  · rfl
  · next h => exact absurd hq h

theorem computesAtE0_decodeControllerState (v : BitVec 64) :
    ComputesAtE0 (.decodeControllerState v) fun s => { s with outPayload := decodeState v } := by
  intro s hb hc ha hq
  refine (runCommand_executing hb hc ha).trans ?_
  unfold stepDecodeControllerState
  split
  · rfl
  · next h => exact absurd hq h

theorem pure_of_firstStep_e0 {op : OpCode} (h : firstStep op = .at .e0) :
    opUsesTransport op = false ∧ opReserved op = false ∧ op ≠ opTeardown := by
  revert op
  decide

/-- From an idle Core a command of the one step E0 runs in acceptance, to the state `t`, and that step. -/
theorem ComputesAtE0.run {i : Instr} {d : Descriptor} {f : State → State} {s t : State} (hi : ComputesAtE0 i f)
    (hd : encodeCommand i = some d) (hfirst : firstStep d.op = .at .e0) (hok : operandsOk d = true)
    (hs : s.idleReady) (ht : t = { s with
      cmd := some (s.offered i.core d), port := s.portAfter i.core, busy := true, seq := .at .e0 })
    (hf : (f t).cmdOp = t.cmdOp) : exec i s = .next t ∧ exec i t = .next { f t with
      result := true, busy := false, seq := .idle, hist := (f t).hist ++ [.done d.op true] } := by
  obtain ⟨hpure, hres, hne⟩ := pure_of_firstStep_e0 hfirst
  have hdec := decodeCommand_encodeCommand hd
  have hbegin := exec_begins hd hdec hs (fun h => absurd (hpure.symm.trans h) (by decide)) hres hok
  rw [hfirst] at hbegin
  have habort : t.abortDue = false := by
    unfold State.abortDue
    rw [ht, hs.2.2]
    rfl
  have hcmd : t.cmd.map decodeCommand = some i.core := by
    rw [ht]
    exact congrArg some (State.offered_decode hdec s)
  have hop : t.cmdOp = d.op := by
    rw [ht]
    exact (State.offered_eq hdec s).1
  refine ⟨ht ▸ hbegin, (hi t (by rw [ht]) hcmd habort (by rw [ht])).trans ?_⟩
  rw [State.complete_eq (hf.trans hop) hne]

/-- Settles O14: the run of a command of one step, with the code that `EncodeDpad` gives. -/
theorem encodeDpadResult : Obligations.EncodeDpadResult := by
  unfold Obligations.EncodeDpadResult
  intro flags s hs
  obtain ⟨hzero, hdir, -, hillegal, -⟩ := dpadCodes Config.dpadBits Config.dpadCodes
  obtain ⟨h1, h2⟩ := (computesAtE0_encodeDpad flags).run rfl rfl rfl hs rfl rfl
  refine ⟨_, encodeDpad flags, h1, h2, ?_, ?_, hillegal flags⟩
  · rintro rfl
    exact hzero
  · rintro d rfl
    exact hdir d

/-- Settles O21: the run of a command of one step, with POLAR at the angle mod 360. -/
theorem polarToCartesianResult : Obligations.PolarToCartesianResult := by
  unfold Obligations.PolarToCartesianResult
  intro angle intensity s hs
  have ha : ((angle % 360).toNat : ℤ) = angle % 360 := Int.toNat_of_nonneg (Int.emod_nonneg angle (by decide))
  obtain ⟨h1, h2⟩ := (computesAtE0_polarToCartesian angle intensity).run rfl rfl rfl hs rfl rfl
  refine ⟨_, (angle % 360).toNat, by omega, ha, h1, ?_⟩
  rw [ha]
  exact h2

/-- Settles O22: the run of a command of one step, with `Decode(STATE)`. -/
theorem decodeControllerStateResult : Obligations.DecodeControllerStateResult := by
  unfold Obligations.DecodeControllerStateResult
  intro v s hs
  have hrun := (computesAtE0_decodeControllerState v).run rfl rfl rfl hs rfl rfl
  rw [decodeState_eq] at hrun
  exact ⟨_, hrun⟩

end Sys2Proof.Machine

/-! ## CRC-8 and the framing of packets (41_crc_framing R93 to R102) -/

namespace Sys2Proof.Machine

/-! ### Linearity (41 R93, R95, R99) -/

@[simp] theorem crcBit_zero : crcBit 0#8 = 0#8 := rfl

/-- A bit step as the shift and the generator's low byte, each on its own. -/
theorem crcBit_eq (d : Byte) : crcBit d = d <<< 1 ^^^ if d.msb then crcPoly else 0#8 := by
  unfold crcBit
  split
  · rfl
  · exact (BitVec.xor_zero).symm

theorem crcBit_xor (a b : Byte) : crcBit (a ^^^ b) = crcBit a ^^^ crcBit b := by
  have hpoly : (if (a ^^^ b).msb then crcPoly else 0#8) =
      (if a.msb then crcPoly else 0#8) ^^^ if b.msb then crcPoly else 0#8 := by
    rw [BitVec.msb_xor]
    cases a.msb <;> cases b.msb <;> rfl
  rw [crcBit_eq, crcBit_eq, crcBit_eq, hpoly, BitVec.shiftLeft_xor_distrib]
  ac_rfl

@[simp] theorem crcBits_zero (n : Nat) : crcBits n 0#8 = 0#8 := by
  induction n with
  | zero => rfl
  | succ n ih => exact (congrArg (crcBits n) crcBit_zero).trans ih

theorem crcBits_xor (n : Nat) (a b : Byte) : crcBits n (a ^^^ b) = crcBits n a ^^^ crcBits n b := by
  induction n generalizing a b with
  | zero => rfl
  | succ n ih => exact (congrArg (crcBits n) (crcBit_xor a b)).trans (ih _ _)

/-- A byte equal to the accumulator clears it. -/
@[simp] theorem crcStep_self (c : Byte) : crcStep c c = 0#8 := by
  unfold crcStep
  rw [BitVec.xor_self, crcBits_zero]

theorem crcStep_xor (c c' b b' : Byte) : crcStep (c ^^^ c') (b ^^^ b') = crcStep c b ^^^ crcStep c' b' := by
  unfold crcStep
  rw [← crcBits_xor]
  congr 1
  ac_rfl

theorem crcFrom_xor (c c' : Byte) {p q : List Byte} (h : p.length = q.length) :
    crcFrom (c ^^^ c') (List.zipWith (fun a b => a ^^^ b) p q) = crcFrom c p ^^^ crcFrom c' q := by
  induction p generalizing c c' q with
  | nil =>
    cases List.length_eq_zero_iff.mp h.symm
    rfl
  | cons a p ih =>
    cases q with
    | nil => cases h
    | cons b q =>
      have hstep := congrArg (crcFrom · (List.zipWith (fun a b => a ^^^ b) p q)) (crcStep_xor c c' a b)
      exact hstep.trans (ih _ _ (Nat.succ.inj h))

theorem crc8_zeros_append (n : Nat) (p : List Byte) : crc8 (List.replicate n 0x00#8 ++ p) = crc8 p := by
  induction n with
  | zero => rfl
  | succ n ih => exact (congrArg (crcFrom · (List.replicate n 0x00#8 ++ p)) (crcStep_self 0#8)).trans ih

/-- Settles O6: a bit step is linear, and a zero byte leaves the accumulator 0. -/
theorem crcLinear : Obligations.CrcLinear := by
  unfold Obligations.CrcLinear
  exact ⟨fun _ _ => crcFrom_xor crcInit crcInit, crc8_zeros_append⟩

/-! ### The remainder (41 R102) -/

section

open Polynomial

/-- The generator `x^8 + x^2 + x + 1` over GF(2) (41 R102). -/
noncomputable def crcGenerator : (ZMod 2)[X] := X ^ 8 + X ^ 2 + X + 1

/-- A byte read as a polynomial, bit `k` the coefficient of `x^k` (41 R102). -/
noncomputable def bytePoly (b : Byte) : (ZMod 2)[X] := ∑ k ∈ Finset.range 8, if b.getLsbD k then X ^ k else 0

/-- The residue of a byte's polynomial by the generator. -/
noncomputable def byteResidue (b : Byte) : AdjoinRoot crcGenerator := AdjoinRoot.mk crcGenerator (bytePoly b)

theorem bytePoly_xor (a b : Byte) : bytePoly (a ^^^ b) = bytePoly a + bytePoly b := by
  unfold bytePoly
  rw [← Finset.sum_add_distrib]
  refine Finset.sum_congr rfl fun k _ => ?_
  rw [BitVec.getLsbD_xor]
  cases a.getLsbD k <;> cases b.getLsbD k <;> simp [CharTwo.add_self_eq_zero]

@[simp] theorem bytePoly_zero : bytePoly 0#8 = 0 := by simp [bytePoly]

theorem bytePoly_crcPoly : bytePoly crcPoly = X ^ 2 + X + 1 := by
  have hbits : bytePoly crcPoly = 1 + X + X ^ 2 := by simp [bytePoly, crcPoly, Finset.sum_range_succ]
  rw [hbits]
  ring

/-- A shift multiplies by `x`; the bit shifted out is the term `x^8` that the byte loses. -/
theorem bytePoly_mul_X (d : Byte) : bytePoly d * X = bytePoly (d <<< 1) + if d.msb then X ^ 8 else 0 := by
  have hlow : (d <<< 1).getLsbD 0 = false := by simp
  have hnext : ∀ k ∈ Finset.range 7, (d <<< 1).getLsbD (k + 1) = d.getLsbD k := by
    intro k hk
    have hk8 : k + 1 < 8 := Nat.succ_lt_succ (Finset.mem_range.mp hk)
    rw [BitVec.getLsbD_shiftLeft]
    simp [hk8]
  have hshift : bytePoly (d <<< 1) = ∑ k ∈ Finset.range 7, if d.getLsbD k then X ^ (k + 1) else 0 := by
    rw [bytePoly, Finset.sum_range_succ', hlow, Finset.sum_congr rfl fun k hk => by rw [hnext k hk]]
    exact add_zero _
  have hsplit : bytePoly d = (∑ k ∈ Finset.range 7, if d.getLsbD k then X ^ k else 0) + if d.msb then X ^ 7 else 0 :=
    Finset.sum_range_succ _ 7
  simp only [hshift, hsplit, add_mul, Finset.sum_mul, ite_mul, zero_mul, ← pow_succ]

theorem mk_X_pow_eight : AdjoinRoot.mk crcGenerator (X ^ 8) = byteResidue crcPoly := by
  unfold byteResidue
  rw [bytePoly_crcPoly, AdjoinRoot.mk_eq_mk, CharTwo.sub_eq_add, ← add_assoc, ← add_assoc]
  exact dvd_rfl

theorem byteResidue_xor (a b : Byte) : byteResidue (a ^^^ b) = byteResidue a + byteResidue b := by
  unfold byteResidue
  rw [bytePoly_xor, map_add]

/-- A bit step multiplies the residue by `x`: the generator's low byte stands for the `x^8` shifted out. -/
theorem byteResidue_crcBit (d : Byte) : byteResidue (crcBit d) = byteResidue d * AdjoinRoot.root crcGenerator := by
  have hout : byteResidue (if d.msb then crcPoly else 0#8) =
      AdjoinRoot.mk crcGenerator (if d.msb then X ^ 8 else 0) := by
    split
    · exact mk_X_pow_eight.symm
    · exact congrArg _ bytePoly_zero
  rw [crcBit_eq, byteResidue_xor, hout, byteResidue, ← map_add, ← bytePoly_mul_X, map_mul]
  rfl

theorem byteResidue_crcBits (n : Nat) (d : Byte) :
    byteResidue (crcBits n d) = byteResidue d * AdjoinRoot.root crcGenerator ^ n := by
  induction n generalizing d with
  | zero => exact (mul_one _).symm
  | succ n ih => exact (ih _).trans (by rw [byteResidue_crcBit, mul_assoc, pow_succ'])

theorem byteResidue_crcStep (c b : Byte) :
    byteResidue (crcStep c b) = (byteResidue c + byteResidue b) * AdjoinRoot.root crcGenerator ^ 8 :=
  (byteResidue_crcBits 8 _).trans (by rw [byteResidue_xor])

/-- The list `l` appended to the polynomial `m`, eight places for each byte (41 R102). -/
noncomputable def appendPoly (m : (ZMod 2)[X]) (l : List Byte) : (ZMod 2)[X] :=
  l.foldl (fun acc b => acc * X ^ 8 + bytePoly b) m

/-- While the accumulator is the residue of `m x^8`, it stays so: Horner's rule, a byte at a time. -/
theorem byteResidue_crcFrom {m : (ZMod 2)[X]} {c : Byte} (l : List Byte)
    (h : byteResidue c = AdjoinRoot.mk crcGenerator (m * X ^ 8)) :
    byteResidue (crcFrom c l) = AdjoinRoot.mk crcGenerator (appendPoly m l * X ^ 8) := by
  induction l generalizing m c with
  | nil => exact h
  | cons b l ih =>
    refine ih (m := m * X ^ 8 + bytePoly b) (c := crcStep c b) ?_
    rw [byteResidue_crcStep, h, byteResidue, ← map_add, map_mul _ (_ + _), map_pow]
    rfl

/-- Settles O7: from 0, the CRC is the residue of `M(x) x^8`. -/
theorem crcPolynomialRemainder : Obligations.CrcPolynomialRemainder := by
  unfold Obligations.CrcPolynomialRemainder
  intro poly hpoly l
  have hlist : poly l = appendPoly 0 l := congrFun hpoly l
  have hbyte : poly [crc8 l] = bytePoly (crc8 l) := by
    rw [hpoly]
    exact (congrArg (· + bytePoly (crc8 l)) (zero_mul _)).trans (zero_add _)
  have hinit : byteResidue crcInit = AdjoinRoot.mk crcGenerator (0 * X ^ 8) := by
    rw [zero_mul]
    exact congrArg _ bytePoly_zero
  rw [hlist, hbyte]
  exact AdjoinRoot.mk_eq_mk.mp (byteResidue_crcFrom l hinit).symm

end

/-! ### Packets (41 R96, R98, R100) -/

/-- Only a payload's own bytes are read as that payload. -/
theorem payloadOf_eq_some_iff {data : List Byte} {p : Payload} : payloadOf data = some p ↔ data = payloadBytes p := by
  constructor
  · intro h
    unfold payloadOf at h
    split at h <;> cases h
    rfl
  · rintro rfl
    rfl

theorem crc8_append_crc8 (p : List Byte) : crc8 (p ++ [crc8 p]) = 0x00#8 := by
  unfold crc8 crcFrom
  rw [List.foldl_append]
  exact crcStep_self _

/-- Settles O5: the CRC byte meets itself in the accumulator and clears it. -/
theorem crcZeroResidue : Obligations.CrcZeroResidue := by
  unfold Obligations.CrcZeroResidue
  exact ⟨crc8_append_crc8, fun p => crc8_append_crc8 (payloadBytes p)⟩

/-- Settles O8: the neutral packet's CRC is known, and the check input's is computed. -/
theorem crcReferenceVectors : Obligations.CrcReferenceVectors := by
  unfold Obligations.CrcReferenceVectors
  exact ⟨crc8_neutral, by decide +kernel, packetBytes_neutral⟩

theorem take_packetBytes (k : Packet) : (packetBytes k).take 8 = payloadBytes k.payload := rfl

/-- Settles O9: the first eight bytes are the payload's, and the ninth is their CRC. -/
theorem frameRoundTrip : Obligations.FrameRoundTrip := by
  unfold Obligations.FrameRoundTrip
  intro p
  rw [take_packetBytes]
  exact ⟨rfl, payloadOf_eq_some_iff.mpr rfl, rfl⟩

/-! ### The commands (41 R95 to R97) -/

theorem stepCrc8_k0 {s : State} (hq : s.seq = .at .k0) (data : List Byte) :
    stepCrc8 data s = .next ({ s with crcAcc := crc8 data, outCrc := crc8 data }.complete true) := by
  unfold stepCrc8
  rw [hq]

theorem stepBuildPacket_k0 {s : State} (hq : s.seq = .at .k0) (p : Payload) :
    stepBuildPacket (payloadBytes p) s = .next ({ s with
      crcAcc := (buildPacket p).crc, pktBuf := buildPacket p, outPkt := buildPacket p }.complete true) := by
  unfold stepBuildPacket
  rw [hq]
  rfl

theorem parseAck_eq_ite (b : Byte) : parseAck b = if b = 0x90#8 then true else false := by
  unfold parseAck byteUsbAck
  split
  · next h => exact beq_iff_eq.mpr h
  · next h => exact beq_eq_false_iff_ne.mpr h

theorem stepParseAck_k0 {s : State} (hq : s.seq = .at .k0) (b : Byte) :
    stepParseAck [b] s = .next (s.complete (if b = 0x90#8 then true else false)) := by
  unfold stepParseAck
  rw [hq, ← parseAck_eq_ite]

/-- The Core at K0 of the framing command `i`, which the idle Core `s` has accepted (30 R74). -/
def State.begunAtK0 (i : Instr) (d : Descriptor) (s : State) : State :=
  { s with cmd := some (s.offered i.core d), port := s.portAfter i.core, busy := true, seq := .at .k0 }

theorem pure_of_firstStep_k0 {op : OpCode} (h : firstStep op = .at .k0) :
    opUsesTransport op = false ∧ opReserved op = false ∧ op ≠ opTeardown := by
  revert op
  decide

section
variable {i : Instr} {d : Descriptor} {s : State} (hs : s.idleReady) (hd : encodeCommand i = some d)
include hs hd

theorem exec_eq_begunAtK0 (hfirst : firstStep d.op = .at .k0) (hok : operandsOk d = true) :
    exec i s = .next (s.begunAtK0 i d) := by
  obtain ⟨hpure, hres, -⟩ := pure_of_firstStep_k0 hfirst
  have hlink : opUsesTransport d.op = true → s.link = .opened := fun h => absurd (hpure.symm.trans h) (by decide)
  have hbegin := exec_begins hd (decodeCommand_encodeCommand hd) hs hlink hres hok
  rw [hfirst] at hbegin
  exact hbegin

theorem runCommand_begunAtK0 (body : State → Out) :
    runCommand i.core d body (s.begunAtK0 i d) = body (s.begunAtK0 i d) := by
  have hcmd : (s.begunAtK0 i d).cmd.map decodeCommand = some i.core :=
    congrArg some (State.offered_decode (decodeCommand_encodeCommand hd) s)
  have habort : (s.begunAtK0 i d).abortDue = false := by
    unfold State.abortDue
    rw [show (s.begunAtK0 i d).abortReq = false from hs.2.2]
    rfl
  exact runCommand_executing rfl hcmd habort

/-- From an idle Core a command whose one step is K0 runs in acceptance and that step, which leaves `u` and completes
(30 R74). -/
theorem exec_run_k0 {body : State → Out} {u : State} {ok : Bool} (hexec : exec i = runCommand i.core d body)
    (hfirst : firstStep d.op = .at .k0) (hok : operandsOk d = true)
    (hbody : body (s.begunAtK0 i d) = .next (u.complete ok)) (hu : u.cmd = (s.begunAtK0 i d).cmd) :
    ∃ t, exec i s = .next t ∧ exec i t = .next { u with
      result := ok, busy := false, seq := .idle, hist := u.hist ++ [.done d.op ok] } := by
  have hop : u.cmdOp = d.op := by
    unfold State.cmdOp
    rw [hu]
    exact (State.offered_eq (decodeCommand_encodeCommand hd) s).1
  refine ⟨_, exec_eq_begunAtK0 hs hd hfirst hok, ?_⟩
  rw [hexec, runCommand_begunAtK0 hs hd, hbody, State.complete_eq hop (pure_of_firstStep_k0 hfirst).2.2]

end

/-- Settles O10: K0 computes the CRC of DATA. -/
theorem crc8Result : Obligations.Crc8Result := by
  unfold Obligations.Crc8Result
  intro data s hs hlen
  exact exec_run_k0 (i := .crc8 data) hs rfl rfl rfl hlen (stepCrc8_k0 rfl data) rfl

/-- Settles O11: DATA is the bytes of a payload, and K0 frames it. -/
theorem buildPacketResult : Obligations.BuildPacketResult := by
  unfold Obligations.BuildPacketResult
  intro data p s hs hp
  obtain rfl := payloadOf_eq_some_iff.mp hp
  exact exec_run_k0 (i := .buildPacket (payloadBytes p)) hs rfl rfl rfl rfl (stepBuildPacket_k0 rfl p) rfl

/-- Settles O12: K0 completes with the verdict on the one byte. -/
theorem parseAckResult : Obligations.ParseAckResult := by
  unfold Obligations.ParseAckResult
  intro b s hs
  exact exec_run_k0 (i := .parseAck [b]) hs rfl rfl rfl rfl (stepParseAck_k0 rfl b) rfl

end Sys2Proof.Machine

/-! ## The transitions of STATUS.SYNC (42_link_sequencer R106) -/

namespace Sys2Proof.Machine

variable {s t : State}

/-- A step of the executing command has given STATUS.SYNC the value of its row: FS0, FS8, FSX, or SP2 by RESP
(42 R106 ST2 to ST6). -/
def SyncByCommand (s t : State) : Prop :=
  s.busy = true ∧ ∃ o, (s.seq = .call o .fs0 ∧ t.sync = .syncing) ∨ (s.seq = .call o .fs8 ∧ t.sync = .synced) ∨
    (s.seq = .call o .fsx ∧ t.sync = .outOfSync) ∨ (s.seq = .call o .sp2 ∧ s.resp = 0x90#8 ∧ t.sync = .synced) ∨
    (s.seq = .call o .sp2 ∧ s.resp ≠ 0x90#8 ∧ t.sync = .outOfSync)

/-- A TransportError's fault entry has left STATUS.SYNC OutOfSync (42 R106 ST7). -/
def SyncByFault (s t : State) : Prop :=
  t.sync = .outOfSync ∧ ∃ ev, t.hist = s.hist ++ ev ∧ Event.fault .transportError ∈ ev

/-- The taking of an ABORT has left STATUS.SYNC OutOfSync (42 R106 ST8). -/
def SyncByAbort (s t : State) : Prop :=
  t.sync = .outOfSync ∧ s.abortReq = true ∧ t.abortReq = false ∧ t.aborted = true

theorem syncByCommand_of_verdict {o : Label} {c : SubLabel} {v : SyncStatus} (hb : s.busy = true)
    (hq : s.seq = .call o c) (hv : VerdictStep s c v) (ht : t.sync = v) : SyncByCommand s t := by
  refine ⟨hb, o, ?_⟩
  cases hv with
  | fs8 => exact .inr (.inl ⟨hq, ht⟩)
  | fsx => exact .inr (.inr (.inl ⟨hq, ht⟩))
  | sp2 =>
    by_cases hr : s.resp = byteUsbAck
    · exact .inr (.inr (.inr (.inl ⟨hq, hr, ht.trans (if_pos hr)⟩)))
    · exact .inr (.inr (.inr (.inr ⟨hq, hr, ht.trans (if_neg hr)⟩)))

/-- The events before the fault entry are those of the failed step. -/
theorem syncByFault_transportError {u : State} {ev : List Event} (hu : u.hist = s.hist ++ ev) :
    SyncByFault s u.transportError := by
  obtain ⟨f, op, st, q, b, ok, r, ev', e, -⟩ := State.transportError_effect u
  rw [e]
  exact ⟨rfl, ev ++ .fault .transportError :: ev', by rw [hu, List.append_assoc], by simp⟩

theorem syncByAbort_takeAbort (h : s.abortReq = true) (p : Option Descriptor) (d : Draw) (sc : List Move) (tk : Nat) :
    SyncByAbort s (s.drawn d p sc tk).takeAbort :=
  ⟨State.takeAbort_sync _, h, State.takeAbort_abortReq _, State.takeAbort_aborted _⟩

theorem CommandEffect.sync_cases (h : CommandEffect s t) (hb : s.busy = true) :
    t.sync = s.sync ∨ SyncByCommand s t ∨ SyncByFault s t := by
  cases h with
  | writeFails => exact .inr (.inr (syncByFault_transportError rfl))
  | readFails => exact .inr (.inr (syncByFault_transportError (List.append_nil _).symm))
  | writes o c c' l pkt acc sy visit hf hq hw hs =>
    rcases hs with ⟨rfl, rfl⟩ | ⟨-, rfl⟩
    · exact .inr (.inl ⟨hb, o, .inl ⟨hq, rfl⟩⟩)
    · exact .inl rfl
  | verdictEnds o c sy ok1 ok hq hv => exact .inr (.inl (syncByCommand_of_verdict hb hq hv rfl))
  | verdictGoesOn o c sy ok1 ok q hq hv => exact .inr (.inl (syncByCommand_of_verdict hb hq hv rfl))
  | _ => exact .inl rfl

theorem MoveEffect.sync_cases {m : Move} (h : MoveEffect s m t) : t.sync = s.sync ∨
    (m = .reset ∧ t.sync = .outOfSync) ∨ SyncByCommand s t ∨ SyncByFault s t ∨ SyncByAbort s t := by
  cases h with
  | accepts d c sc tk hb hp =>
    rcases State.accept_effect c none (s.drawn d s.port sc tk) with
      ⟨ha, e⟩ | ⟨-, -, e⟩ | ⟨-, -, _, -, -, e⟩ | ⟨-, -, -, -, -, e⟩ <;> rw [e]
    · exact .inr (.inr (.inr (.inr (syncByAbort_takeAbort ha _ d sc tk))))
    all_goals exact .inl rfl
  | aborts _ d p sc tk ha hb => exact .inr (.inr (.inr (.inr (syncByAbort_takeAbort ha p d sc tk))))
  | commandSteps d sc tk t hb ha h =>
    rcases (command_effects h).sync_cases hb with e | e | e
    · exact .inl e
    · exact .inr (.inr (.inl e))
    · exact .inr (.inr (.inr (.inl e)))
  | arrives => exact .inl (State.arriveWith_sync _ _ _)
  | resets => exact .inr (.inl ⟨rfl, rfl⟩)
  | _ => exact .inl rfl

/-- Settles O49: of the effects of a move only a verdict, the flush of FS0, a fault entry, an ABORT and a reset write
STATUS.SYNC. -/
theorem syncTransitions : Obligations.SyncTransitions := by
  unfold Obligations.SyncTransitions
  intro s t h hne
  exact (step_effects h).sync_cases.resolve_left hne

end Sys2Proof.Machine

/-! ## Commands that send (42_link_sequencer R107, R108, R116, R118, R119, R121) -/

namespace Sys2Proof.Machine

variable {s t : State} {i : Instr} {d : Descriptor}

/-! ### A command of one send -/

theorem sendsOnce_sendPacket {data : List Byte} {p : Payload} (hp : payloadOf data = some p) :
    SendsOnce (.sendPacket data) .s0 p := by
  intro c s hs hq
  refine (runCommand_executing hs.busy hs.cmd hs.noAbort).trans ?_
  unfold stepSendPacket
  rw [hq, hp]

theorem sendsOnce_sendCommand (v : BitVec 64) : SendsOnce (.sendCommand v) .c0 (decodeState v) := by
  intro c s hs hq
  refine (runCommand_executing hs.busy hs.cmd hs.noAbort).trans ?_
  unfold stepSendCommand
  rw [hq]

/-- Settles O27: the run of a command of one send, whose payload's bytes are DATA. -/
theorem sendPacketRun : Obligations.SendPacketRun := by
  unfold Obligations.SendPacketRun
  intro data p b r s hs hp hrxf
  obtain rfl := payloadOf_eq_some_iff.mp hp
  have hok : operandsOk { Descriptor.blank 0x4#4 with data := payloadBytes p } = true := rfl
  have hrun := (sendsOnce_sendPacket hp).run rfl rfl (show 0x4#4 ≠ opTeardown by decide) rfl hok hs hrxf
  rw [List.append_assoc]
  exact hrun

/-- Settles O28: the run of a command of one send, whose payload is `Decode(STATE)`. -/
theorem sendCommandRun : Obligations.SendCommandRun := by
  unfold Obligations.SendCommandRun
  intro v b r s hs hrxf
  rw [List.append_assoc]
  exact (sendsOnce_sendCommand v).run rfl rfl (show 0x7#4 ≠ opTeardown by decide) rfl rfl hs hrxf

/-! ### The executing command's step -/

/-- The Core executes the command `i` and does the step SEQ names: no ABORT is due, or a read in progress that has its
outcome comes before it (60 R137, R139). -/
structure State.DoesStep (i : Instr) (s : State) : Prop where
  busy  : s.busy = true
  cmd   : s.cmd.map decodeCommand = some i.core
  abort : s.abortDue = true → s.readHasOutcome = true

theorem State.DoesStep.runCommand (h : s.DoesStep i) (d : Descriptor) (body : State → Out) :
    runCommand i.core d body s = body s := by
  have hnot : ¬(s.abortDue && !s.readHasOutcome) = true := by
    rw [Bool.and_eq_true]
    rintro ⟨ha, hr⟩
    rw [h.abort ha] at hr
    cases hr
  unfold Machine.runCommand
  rw [if_pos h.busy, if_pos h.cmd, if_neg hnot]

theorem State.doesStep_of_noAbort (hb : s.busy = true) (hc : s.cmd.map decodeCommand = some i.core)
    (ha : s.abortReq = false) : s.DoesStep i :=
  ⟨hb, hc, fun h => by simp [State.abortDue, ha] at h⟩

theorem State.Executes.doesStep (h : s.Executes i) : s.DoesStep i :=
  ⟨h.busy, h.cmd, fun ha => absurd (h.noAbort.symm.trans ha) (by decide)⟩

/-- Whether the Core executes the command depends on these fields alone. -/
theorem State.Executes.of_eq (h : s.Executes i)
    (e : (t.busy, t.cmd, t.abortReq, t.draw) = (s.busy, s.cmd, s.abortReq, s.draw)) : t.Executes i := by
  simp only [Prod.mk.injEq] at e
  obtain ⟨hb, hc, ha, hd⟩ := e
  obtain ⟨hbusy, hcmd, habort, hfail⟩ := h
  refine ⟨hb ▸ hbusy, hc ▸ hcmd, ?_, hd ▸ hfail⟩
  simpa [State.abortDue, State.inTeardown, State.cmdOp, hb, hc, ha] using habort

/-- The Core at the first step of the command `i`, which the idle Core `s` has accepted (30 R74). -/
def State.begun (i : Instr) (d : Descriptor) (s : State) : State :=
  { s with cmd := some (s.offered i.core d), port := s.portAfter i.core, busy := true, seq := firstStep d.op }

theorem State.begun_cmd (hd : encodeCommand i = some d) (s : State) :
    (s.begun i d).cmd.map decodeCommand = some i.core :=
  congrArg some (State.offered_decode (decodeCommand_encodeCommand hd) s)

theorem State.begun_executes (hd : encodeCommand i = some d) (ha : s.abortReq = false) (hf : s.draw.fails = false) :
    (s.begun i d).Executes i where
  busy := rfl
  cmd := State.begun_cmd hd s
  noAbort := by
    unfold State.abortDue
    rw [show (s.begun i d).abortReq = false from ha]
    rfl
  noFail := hf

theorem State.begun_executes_of_linkReady (hd : encodeCommand i = some d) (hs : s.linkReady) :
    (s.begun i d).Executes i := by
  obtain ⟨⟨-, -, ha⟩, -, hf⟩ := hs
  exact State.begun_executes hd ha hf

theorem exec_eq_begun (hd : encodeCommand i = some d) (hs : s.linkReady) (hr : opReserved d.op = false)
    (ho : operandsOk d = true) : exec i s = .next (s.begun i d) := by
  obtain ⟨hready, hl, -⟩ := hs
  exact exec_begins hd (decodeCommand_encodeCommand hd) hready (fun _ => hl) hr ho

/-- A command completes in a state with no ABORT pending (30 R74). -/
theorem State.complete_of_noAbort {op : OpCode} (hop : s.cmdOp = op) (ha : s.abortReq = false) (ok : Bool) :
    s.complete ok = { s with result := ok, busy := false, seq := .idle, hist := s.hist ++ [.done op ok] } := by
  subst hop
  unfold State.complete
  rw [ha]
  rfl

/-! ### SEND_PACKET_SEQ on an open link -/

/-- Within its step `o` the command `i` sends `p`, and goes on as `ret` says. -/
def SendsThen (i : Instr) (o : Label) (p : Payload) (ret : Bool → State → State) : Prop :=
  ∀ (c : SubLabel) (s : State), s.DoesStep i → s.link = .opened → s.seq = .call o c →
    exec i s = sendSeq o p ret c s

/-- SP0: the packet of `p` has been sent. -/
def State.sent (o : Label) (p : Payload) (s : State) : State :=
  { s with
    pktBuf := buildPacket p, crcAcc := crc8 (payloadBytes p), tx := s.tx ++ packetBytes (buildPacket p)
    seq := .call o .sp1, hist := s.hist ++ [.tx (packetBytes (buildPacket p))] }

/-- SP1 and SP2 with the answer `b`: it has left RXF, and STATUS.SYNC is `v`. -/
def State.answered (o : Label) (b : Byte) (r : List Byte) (v : SyncStatus) (s : State) : State :=
  { s with rxf := r, resp := b, reading := false, sync := v, seq := .call o .sp2, hist := s.hist ++ [.rx [b]] }

section
variable {o : Label} {p : Payload} {ret : Bool → State → State} (hi : SendsThen i o p ret)
include hi

theorem SendsThen.exec_sp0 (hs : s.Executes i) (hl : s.link = .opened) (hq : s.seq = .call o .sp0) :
    exec i s = .next (s.sent o p) :=
  (hi .sp0 s hs.doesStep hl hq).trans (congrArg Host.Outcome.next (State.stepSp0_of_ok hs.noFail o p))

theorem SendsThen.exec_sp1_sp2 {b : Byte} {r : List Byte} {ok : Bool} {v : SyncStatus} (hs : s.Executes i)
    (hl : s.link = .opened) (hq : s.seq = .call o .sp1) (hr : s.rxf = b :: r)
    (hv : (ok, v) = if b = 0x90#8 then (true, SyncStatus.synced) else (false, .outOfSync)) :
    ∃ t, exec i s = .next t ∧ exec i t = .next (ret ok (s.answered o b r v)) := by
  have hsp1 : exec i s = .next (s.rxRead o .sp1 1) := hi .sp1 s hs.doesStep hl hq
  rw [State.rxRead_of_cons hs.noFail hr o] at hsp1
  refine ⟨_, hsp1, ?_⟩
  refine Eq.trans (hi .sp2 _ (State.Executes.doesStep (hs.of_eq rfl)) hl rfl) (congrArg Host.Outcome.next ?_)
  exact State.stepSp2_eq hv ret

/-- A send whose answer is in RXF when it begins. -/
theorem SendsThen.run {b : Byte} {r : List Byte} {ok : Bool} {v : SyncStatus} (hs : s.Executes i)
    (hl : s.link = .opened) (hq : s.seq = .call o .sp0) (hr : s.rxf = b :: r)
    (hv : (ok, v) = if b = 0x90#8 then (true, SyncStatus.synced) else (false, .outOfSync)) :
    ∃ t1 t2, exec i s = .next t1 ∧ exec i t1 = .next t2 ∧
      exec i t2 = .next (ret ok ((s.sent o p).answered o b r v)) := by
  obtain ⟨t, h1, h2⟩ := hi.exec_sp1_sp2 (s := s.sent o p) (hs.of_eq rfl) hl rfl hr hv
  exact ⟨_, t, hi.exec_sp0 hs hl hq, h1, h2⟩

end

theorem afterY0_true : afterY0 true s = { s with tmpOk1 := true }.complete true := rfl

theorem afterY0_false : afterY0 false s = { s with tmpOk1 := false, seq := .call .y1 .fs0 } := rfl

theorem sendsThen_syncY0 : SendsThen .sync .y0 neutralPayload afterY0 := by
  intro c s hs hl hq
  refine (hs.runCommand _ _).trans ?_
  unfold stepSync
  rw [hq]

theorem sendsThen_syncY2 : SendsThen .sync .y2 neutralPayload State.complete := by
  intro c s hs hl hq
  refine (hs.runCommand _ _).trans ?_
  unfold stepSync
  rw [hq]

theorem sendsThen_tapT0 (v : BitVec 64) (hold : Seconds) : SendsThen (.tapCommand v hold) .t0 (decodeState v)
    fun ok t => { t with tmpOk1 := ok, seq := .at .t1 } := by
  intro c s hs hl hq
  refine (hs.runCommand _ _).trans ?_
  unfold stepTapCommand
  rw [hq]

theorem sendsThen_tapT2 (v : BitVec 64) (hold : Seconds) : SendsThen (.tapCommand v hold) .t2 neutralPayload
    fun ok t => { t with tmpOk := ok, seq := .at .t3 } := by
  intro c s hs hl hq
  refine (hs.runCommand _ _).trans ?_
  unfold stepTapCommand
  rw [hq]

theorem sendsThen_teardownD0 : SendsThen .teardown .d0 neutralPayload
    fun ok t => { t with tmpOk := ok, seq := .at .d1 } := by
  intro c s hs hl hq
  refine (hs.runCommand _ _).trans ?_
  unfold stepTeardown
  rw [hq]
  exact if_neg fun h => absurd (hl.symm.trans h.2) (by decide)

theorem verdict_pair (b : Byte) : (if b = 0x90#8 then true else false,
    if b = 0x90#8 then SyncStatus.synced else .outOfSync) =
    if b = 0x90#8 then (true, SyncStatus.synced) else (false, .outOfSync) := by
  split <;> rfl

/-- Settles O37: Y0's send is acknowledged, and SYNC completes after it. -/
theorem syncOptimistic : Obligations.SyncOptimistic := by
  unfold Obligations.SyncOptimistic
  intro r s hs hrxf
  have hx := State.begun_executes_of_linkReady (i := .sync) rfl hs
  have ⟨_, hl, _⟩ := hs
  obtain ⟨t1, t2, h1, h2, h3⟩ := sendsThen_syncY0.run (b := 0x90#8) (ok := true) hx hl rfl hrxf rfl
  refine ⟨_, t1, t2, exec_eq_begun rfl hs rfl rfl, h1, h2, h3.trans (congrArg _ ?_)⟩
  rw [afterY0_true, State.complete_eq (op := 0x6#4) ?op (by decide)]
  case op => exact State.cmdOp_of_decode (i := .sync) rfl hx.cmd
  simp only [State.answered, State.sent, State.begun, buildPacket_neutral, crc8_neutral, List.append_assoc,
    List.cons_append, List.nil_append]
  rfl

/-! ### A run of instructions -/

theorem runInstrs_cons {l : List Instr} (h : exec i s = .next t) : runInstrs (i :: l) s = runInstrs l t := by
  rw [runInstrs, h]

/-- A send within a run, its answer in RXF when it begins. -/
theorem SendsThen.runInstrs_eq {o : Label} {p : Payload} {ret : Bool → State → State} {b : Byte} {r : List Byte}
    {ok : Bool} {v : SyncStatus} {l : List Instr} (hi : SendsThen i o p ret) (hs : s.Executes i)
    (hl : s.link = .opened) (hq : s.seq = .call o .sp0) (hr : s.rxf = b :: r)
    (hv : (ok, v) = if b = 0x90#8 then (true, SyncStatus.synced) else (false, .outOfSync)) :
    runInstrs (i :: i :: i :: l) s = runInstrs l (ret ok ((s.sent o p).answered o b r v)) := by
  obtain ⟨t1, t2, h1, h2, h3⟩ := hi.run hs hl hq hr hv
  rw [runInstrs_cons h1, runInstrs_cons h2, runInstrs_cons h3]

/-! ### TAP_COMMAND (42 R119, R120) -/

section
variable {v : BitVec 64} {hold : Seconds} (hs : s.DoesStep (.tapCommand v hold))
include hs

theorem exec_tapCommand_t1 (hq : s.seq = .at .t1) : exec (.tapCommand v hold) s = .next { s with
    seq := .call .t2 .sp0, hist := s.hist ++ [.wait (.exact (1 / 20))] } := by
  refine (hs.runCommand _ _).trans ?_
  unfold stepTapCommand
  rw [hq, tapGap_eq]
  rfl

theorem exec_tapCommand_t3 (hq : s.seq = .at .t3) : exec (.tapCommand v hold) s = .next { s with
    seq := .at .t4, hist := s.hist ++ [.wait hold] } := by
  refine (hs.runCommand _ _).trans ?_
  unfold stepTapCommand
  rw [hq]
  rfl

theorem exec_tapCommand_t4 (hq : s.seq = .at .t4) : exec (.tapCommand v hold) s = .next { s with
    result := s.tmpOk1 && s.tmpOk, busy := false, seq := .idle
    hist := s.hist ++ [.done 0x8#4 (s.tmpOk1 && s.tmpOk)] } := by
  refine (hs.runCommand _ _).trans ?_
  unfold stepTapCommand
  rw [hq]
  exact congrArg _ (State.complete_eq (State.cmdOp_of_decode rfl hs.cmd) (by decide) _)

end

theorem verdict_and (a b : Byte) : ((if a = 0x90#8 then true else false) && if b = 0x90#8 then true else false) =
    if a = 0x90#8 ∧ b = 0x90#8 then true else false := by
  by_cases ha : a = 0x90#8 <;> simp [ha]

/-- Settles O39: the two sends with the two waits in their places, and T4's conjunction. -/
theorem tapCommandRun : Obligations.TapCommandRun := by
  unfold Obligations.TapCommandRun
  refine ⟨fun v hold a b r s hs hrxf => ?run, fun v hold s hb ha hc => ?steps⟩
  case steps =>
    have hs : s.DoesStep (.tapCommand v hold) := State.doesStep_of_noAbort hb hc ha
    exact ⟨exec_tapCommand_t1 hs, exec_tapCommand_t3 hs, exec_tapCommand_t4 hs⟩
  case run =>
    have hx := State.begun_executes_of_linkReady (i := .tapCommand v hold) rfl hs
    have ⟨_, hl, _⟩ := hs
    -- A row's premises stand under `by`, which leaves them until the row before has given the state.
    calc runInstrs (List.replicate 10 (.tapCommand v hold)) s
      _ = runInstrs (List.replicate 9 (.tapCommand v hold)) _ := runInstrs_cons (exec_eq_begun rfl hs rfl rfl)
      _ = runInstrs (List.replicate 6 (.tapCommand v hold)) _ :=
        (sendsThen_tapT0 v hold).runInstrs_eq hx hl rfl hrxf (verdict_pair a)
      _ = runInstrs (List.replicate 5 (.tapCommand v hold)) _ :=
        runInstrs_cons (exec_tapCommand_t1 (by exact State.Executes.doesStep (hx.of_eq rfl)) (by rfl))
      _ = runInstrs (List.replicate 2 (.tapCommand v hold)) _ := (sendsThen_tapT2 v hold).runInstrs_eq (r := r)
        (by exact hx.of_eq rfl) (by exact hl) (by rfl) (by rfl) (verdict_pair b)
      _ = runInstrs (List.replicate 1 (.tapCommand v hold)) _ :=
        runInstrs_cons (exec_tapCommand_t3 (by exact State.Executes.doesStep (hx.of_eq rfl)) (by rfl))
      _ = runInstrs [] _ :=
        runInstrs_cons (exec_tapCommand_t4 (by exact State.Executes.doesStep (hx.of_eq rfl)) (by rfl))
      _ = _ := by
        simp only [State.answered, State.sent, State.begun, buildPacket_neutral, crc8_neutral, verdict_and,
          List.append_assoc, List.cons_append, List.nil_append]
        rfl

/-! ### TEARDOWN (42 R121, R122) -/

/-- No check of acceptance stops a TEARDOWN, be there a fault or the link closed (30 R74). -/
theorem exec_teardown_begun (hb : s.busy = false) (ha : s.abortReq = false) :
    exec .teardown s = .next (s.begun .teardown (Descriptor.blank opTeardown)) := by
  have hop := (State.offered_eq (i := .teardown) (d := Descriptor.blank opTeardown) rfl s).1
  rw [exec_idle rfl hb]
  rcases State.accept_cases (s.offered .teardown (Descriptor.blank opTeardown)) (s.portAfter .teardown) s with
    ⟨ha', -⟩ | ⟨-, -, hne, -⟩ | ⟨-, -, hne, -⟩ | ⟨-, -, -, -, -, e⟩
  · rw [ha] at ha'; cases ha'
  · exact absurd hop hne
  · exact absurd hop hne
  · rw [hop] at e
    exact congrArg _ e

section
variable (hs : s.DoesStep .teardown) (ha : s.abortReq = false)
include hs ha

theorem exec_teardown_closed (hq : s.seq = .call .d0 .sp0) (hl : s.link = .closed) : exec .teardown s = .next { s with
    result := false, busy := false, seq := .idle, hist := s.hist ++ [.done 0x9#4 false] } := by
  refine (hs.runCommand _ _).trans ?_
  unfold stepTeardown
  rw [hq]
  dsimp only
  rw [if_pos ⟨rfl, hl⟩]
  exact congrArg _ (State.complete_of_noAbort (State.cmdOp_of_decode rfl hs.cmd) ha false)

theorem exec_teardown_d1 (hq : s.seq = .at .d1) : exec .teardown s = .next { s with
    link := .closed, result := s.tmpOk, busy := false, seq := .idle
    hist := s.hist ++ [.close, .done 0x9#4 s.tmpOk] } := by
  have hop : s.closeLink.cmdOp = 0x9#4 := State.cmdOp_of_decode rfl hs.cmd
  refine (hs.runCommand _ _).trans ?_
  unfold stepTeardown
  rw [hq]
  dsimp only
  rw [State.complete_of_noAbort hop ha, State.closeLink_hist, List.append_assoc]
  rfl

end

/-- Settles O40: the neutral packet's send and the closing of the link, or the end on a closed one. -/
theorem teardownRun : Obligations.TeardownRun := by
  unfold Obligations.TeardownRun
  refine ⟨fun b r s hb ha hl hf hrxf => ?opened, fun s hb ha hl => ?closed⟩
  case opened =>
    have hx := State.begun_executes (i := .teardown) rfl ha hf
    obtain ⟨t1, t2, h1, h2, h3⟩ := sendsThen_teardownD0.run hx hl rfl hrxf (verdict_pair b)
    refine ⟨_, t1, t2, _, exec_teardown_begun hb ha, h1, h2, h3, ?_⟩
    refine Eq.trans (exec_teardown_d1 (State.Executes.doesStep (hx.of_eq rfl)) ha rfl) ?_
    simp only [State.answered, State.sent, State.begun, buildPacket_neutral, crc8_neutral, hb, List.append_assoc,
      List.cons_append, List.nil_append]
    rfl
  case closed =>
    refine ⟨_, exec_teardown_begun hb ha, ?_⟩
    refine (exec_teardown_closed (State.doesStep_of_noAbort rfl (State.begun_cmd rfl s) ha) ha rfl hl).trans ?_
    simp only [State.begun, hb]
    rfl

end Sys2Proof.Machine

/-! ## FORCE_SYNC_SEQ (42_link_sequencer R111 to R116) -/

namespace Sys2Proof.Machine

variable {s t : State} {i : Instr} {o : Label} {c : SubLabel}

/-! ### The commands that call it -/

/-- Within its step `o` the command `i` does FORCE_SYNC_SEQ, and goes on as `ret` says. -/
def SyncsThen (i : Instr) (o : Label) (ret : Bool → State → State) : Prop :=
  ∀ (c : SubLabel) (s : State), s.DoesStep i → s.seq = .call o c → exec i s = syncSeq o ret c s

theorem syncsThen_forceSyncF0 : SyncsThen .forceSync .f0 State.complete := by
  intro c s hs hq
  refine (hs.runCommand _ _).trans ?_
  unfold stepForceSync
  rw [hq]

theorem syncsThen_syncY1 : SyncsThen .sync .y1 afterY1 := by
  intro c s hs hq
  refine (hs.runCommand _ _).trans ?_
  unfold stepSync
  rw [hq]

/-- FORCE_SYNC at F0 and SYNC at Y1 are the calls of FORCE_SYNC_SEQ. -/
theorem exists_syncsThen (h : (i, o) ∈ [(Instr.forceSync, Label.f0), (.sync, .y1)]) :
    i.core = i ∧ ∃ ret, SyncsThen i o ret := by
  simp only [List.mem_cons, Prod.mk.injEq, List.not_mem_nil, or_false] at h
  rcases h with ⟨rfl, rfl⟩ | ⟨rfl, rfl⟩
  · exact ⟨rfl, _, syncsThen_forceSyncF0⟩
  · exact ⟨rfl, _, syncsThen_syncY1⟩

theorem afterY1_true : afterY1 true s = { s with seq := .call .y2 .sp0 } := rfl

theorem afterY1_false : afterY1 false s = s.complete false := rfl

/-- Settles O34: FS8 and FSX return to the caller, which completes or, SYNC after FS8, goes on. -/
theorem handshakeVerdict : Obligations.HandshakeVerdict := by
  unfold Obligations.HandshakeVerdict
  intro s hb ha
  refine ⟨fun hc c ok hmem hq => ?force, fun hc => ⟨fun hq => ?fs8, fun hq => ?fsx⟩⟩
  case force =>
    have hs : s.DoesStep .forceSync := State.doesStep_of_noAbort hb hc ha
    have hop : s.cmdOp = 0x5#4 := State.cmdOp_of_decode rfl hc
    refine (syncsThen_forceSyncF0 c s hs hq).trans ?_
    simp only [List.mem_cons, Prod.mk.injEq, List.not_mem_nil, or_false] at hmem
    rcases hmem with ⟨rfl, rfl⟩ | ⟨rfl, rfl⟩
    · exact congrArg _ (State.complete_eq (s := { s with sync := .synced }) hop (by decide) true)
    · exact congrArg _ (State.complete_eq (s := { s with sync := .outOfSync }) hop (by decide) false)
  case fs8 => exact syncsThen_syncY1 .fs8 s (State.doesStep_of_noAbort hb hc ha) hq
  case fsx =>
    have hop : s.cmdOp = 0x6#4 := State.cmdOp_of_decode rfl hc
    refine (syncsThen_syncY1 .fsx s (State.doesStep_of_noAbort hb hc ha) hq).trans ?_
    exact congrArg _ (State.complete_eq (s := { s with sync := .outOfSync }) hop (by decide) false)

/-! ### Its reads (42 R113, R114) -/

theorem State.rxRead_of_le {n : Nat} (hf : s.draw.fails = false) (h : n ≤ s.rxf.length) (o : Label) (c : SubLabel) :
    s.rxRead o c n = s.readReturns o c n := by
  rcases State.rxRead_cases o c n s with ⟨hf', -⟩ | ⟨-, -, e⟩ | ⟨-, hlt, -⟩
  · rw [hf] at hf'; cases hf'
  · exact e
  · omega

/-- A read of one byte takes the oldest (20 R47). -/
theorem State.readReturns_one {b : Byte} {r : List Byte} (h : s.rxf = b :: r) (o : Label) (c : SubLabel) :
    s.readReturns o c 1 = { s with
      rxf := r, resp := b, reading := false, seq := .call o (afterRead c b), hist := s.hist ++ [.rx [b]] } := by
  unfold State.readReturns
  rw [h]
  rfl

/-- A read in progress that has its bytes comes before a pending ABORT (60 R139). -/
theorem State.doesStep_of_read {n : Nat} (hb : s.busy = true) (hc : s.cmd.map decodeCommand = some i.core)
    (ha : s.abortDue = true → s.reading = true) (hq : s.seq = .call o c) (hn : s.readNeed c = some n)
    (hle : n ≤ s.rxf.length) : s.DoesStep i := by
  refine ⟨hb, hc, fun h => ?_⟩
  unfold State.readHasOutcome
  rw [ha h, hq]
  dsimp only
  rw [hn]
  simp [hle]

theorem SyncsThen.exec_read {ret : Bool → State → State} {n : Nat} (hi : SyncsThen i o ret) (hs : s.DoesStep i)
    (hf : s.draw.fails = false) (hq : s.seq = .call o c) (hc : isSyncLabel c = true) (hn : s.readNeed c = some n)
    (hle : n ≤ s.rxf.length) : exec i s = .next (s.readReturns o c n) := by
  rw [hi c s hs hq, syncSeq_read hc hn, State.rxRead_of_le hf hle]

/-- Settles O33: a read that has its bytes returns them, and each goes on by the last of them. -/
theorem handshakeReads : Obligations.HandshakeReads := by
  unfold Obligations.HandshakeReads
  intro i o hmem s hb hc ha hf
  obtain ⟨hcore, ret, hi⟩ := exists_syncsThen hmem
  rw [← hcore] at hc
  have hread {c : SubLabel} {n : Nat} (hq : s.seq = .call o c) (hsync : isSyncLabel c = true)
      (hn : s.readNeed c = some n) (hle : n ≤ s.rxf.length) : exec i s = .next (s.readReturns o c n) :=
    hi.exec_read (State.doesStep_of_read hb hc ha hq hn hle) hf hq hsync hn hle
  refine ⟨fun hq hdrain => hread hq rfl rfl (hdrain o hq).2, fun b r hr hq => ?_, fun b r hr hq => ?_⟩
  · exact (hread hq rfl rfl (by rw [hr]; simp)).trans (congrArg _ (State.readReturns_one hr o .fs5))
  · exact (hread hq rfl rfl (by rw [hr]; simp)).trans (congrArg _ (State.readReturns_one hr o .fs7))

/-! ### Its poll (42 R111, R112) -/

theorem State.stepFs1With_of_ok (hf : s.draw.fails = false) (bound : Option WaitBound) (o : Label) :
    s.stepFs1With bound o = if 0 < s.rxf.length then { s with
        tmpNavail := s.rxf.length, seq := .call o .fs3, hist := s.hist ++ [.avail s.rxf.length] }
      else if pollEndsWith bound s.draw.pollEnd s.tmpVisit then { s with
        resp := 0x00#8, seq := .call o .fsx, hist := s.hist ++ [.avail 0] }
      else { s with seq := .call o .fs2, hist := s.hist ++ [.avail 0] } := by
  rcases State.stepFs1With_cases bound o s with
    ⟨hf', -⟩ | ⟨-, hpos, e⟩ | ⟨-, hr, hends, e⟩ | ⟨-, hr, hends, e⟩
  · rw [hf] at hf'; cases hf'
  · rw [e, if_pos hpos]; rfl
  · rw [e, if_neg (by simp [hr]), if_pos hends]; rfl
  · rw [e, if_neg (by simp [hr]), hends]; rfl

theorem State.stepFs2_eq (o : Label) (s : State) : s.stepFs2 o = { s with
    tmpVisit := s.tmpVisit + 1, seq := .call o .fs1, hist := s.hist ++ [.wait (.exact (1 / 10))] } := by
  rw [← pollInterval_eq]
  rfl

/-- A finite bound ends the poll at visit `ceil(B / P)` at the latest. -/
theorem pollEndsWith_some (b : WaitBound) (ends : Bool) (j : Nat) :
    pollEndsWith (some b) ends j = (ends || decide (⌈b.1.1 / (1 / 10)⌉₊ ≤ j)) := by
  rw [← b.2.2]
  rfl

theorem SyncsThen.exec_fs1 {ret : Bool → State → State} (hi : SyncsThen i o ret) (hs : s.DoesStep i)
    (hq : s.seq = .call o .fs1) : exec i s = .next (s.stepFs1With Config.syncWaitBound o) := hi .fs1 s hs hq

theorem SyncsThen.exec_fs2 {ret : Bool → State → State} (hi : SyncsThen i o ret) (hs : s.DoesStep i)
    (hq : s.seq = .call o .fs2) : exec i s = .next (s.stepFs2 o) := hi .fs2 s hs hq

/-- Settles O35: the visit and the wait are FS1 and FS2, and the parameter's visit number is `ceil(B / P)`. -/
theorem pollVisit : Obligations.PollVisit := by
  unfold Obligations.PollVisit
  intro i o hmem s hb hc ha hf
  obtain ⟨hcore, ret, hi⟩ := exists_syncsThen hmem
  have hs : s.DoesStep i := State.Executes.doesStep ⟨hb, hcore.symm ▸ hc, ha, hf⟩
  refine ⟨fun hq => ?_, fun hq => by rw [hi.exec_fs2 hs hq, State.stepFs2_eq]⟩
  rw [hi.exec_fs1 hs hq, State.stepFs1With_of_ok hf]
  cases Config.syncWaitBound with
  | none => rfl
  | some b => rw [pollEndsWith_some]

theorem State.pollFor_fs1 (hq : s.seq = .call o .fs1) (bound : Option WaitBound) (n : Nat) :
    s.pollFor bound o (n + 1) = (s.stepFs1With bound o).pollFor bound o n := by
  rw [State.pollFor, hq]

theorem State.pollFor_fs2 (hq : s.seq = .call o .fs2) (bound : Option WaitBound) (n : Nat) :
    s.pollFor bound o (n + 1) = (s.stepFs2 o).pollFor bound o n := by
  rw [State.pollFor, hq]

/-- The poll loop has nothing to do once the poll has ended. -/
theorem State.pollFor_fsx (hq : s.seq = .call o .fsx) (bound : Option WaitBound) (n : Nat) :
    s.pollFor bound o n = s := by
  cases n with
  | zero => rfl
  | succ n => rw [State.pollFor, hq]

theorem State.stepFs1With_of_nil (hf : s.draw.fails = false) (hr : s.rxf = []) (bound : Option WaitBound) (o : Label) :
    s.stepFs1With bound o = if pollEndsWith bound s.draw.pollEnd s.tmpVisit then { s with
        resp := 0x00#8, seq := .call o .fsx, hist := s.hist ++ [.avail 0] }
      else { s with seq := .call o .fs2, hist := s.hist ++ [.avail 0] } := by
  rw [State.stepFs1With_of_ok hf, if_neg (by rw [hr]; decide)]

/-- With `k` visits left before visit `ceil(B / P)`, the poll ends within `2 k + 1` steps. -/
theorem State.pollFor_ends {b : WaitBound} {k : Nat} (hq : s.seq = .call o .fs1) (hr : s.rxf = [])
    (hf : s.draw.fails = false) (hk : ⌈b.1.1 / (1 / 10)⌉₊ ≤ s.tmpVisit + k) :
    (s.pollFor (some b) o (2 * k + 1)).seq = .call o .fsx ∧ (s.pollFor (some b) o (2 * k + 1)).resp = 0x00#8 := by
  induction k generalizing s with
  | zero =>
    have hends : pollEndsWith (some b) s.draw.pollEnd s.tmpVisit = true := by
      rw [pollEndsWith_some, decide_eq_true (by omega), Bool.or_true]
    rw [State.pollFor_fs1 hq, State.stepFs1With_of_nil hf hr, if_pos hends]
    exact ⟨rfl, rfl⟩
  | succ k ih =>
    rw [show 2 * (k + 1) + 1 = 2 * k + 1 + 1 + 1 by omega, State.pollFor_fs1 hq, State.stepFs1With_of_nil hf hr]
    split
    · rw [State.pollFor_fsx rfl]
      exact ⟨rfl, rfl⟩
    · rw [State.pollFor_fs2 rfl, State.stepFs2_eq]
      exact ih rfl hr hf (by dsimp only; omega)

/-- The poll goes on, on a silent device. -/
def State.Polls (o : Label) (s : State) : Prop :=
  (s.seq = .call o .fs1 ∨ s.seq = .call o .fs2) ∧ s.rxf = [] ∧ s.draw.fails = false

theorem State.Polls.pollFor (h : s.Polls o) (n : Nat) : (s.pollFor none o n).Polls o := by
  induction n generalizing s with
  | zero => exact h
  | succ n ih =>
    obtain ⟨hq | hq, hr, hf⟩ := h
    · rw [State.pollFor_fs1 hq, State.stepFs1With_of_nil hf hr]
      exact ih ⟨.inr rfl, hr, hf⟩
    · rw [State.pollFor_fs2 hq, State.stepFs2_eq]
      exact ih ⟨.inl rfl, hr, hf⟩

/-- Settles O36: a finite bound leaves no visit after visit `ceil(B / P)`, and an infinite one keeps the poll going. -/
theorem pollEnds : Obligations.PollEnds := by
  unfold Obligations.PollEnds
  intro s o hq hv hr hf
  refine ⟨fun b => State.pollFor_ends hq hr hf (by omega), fun n => ?_⟩
  obtain ⟨hseq, -⟩ := State.Polls.pollFor (o := o) ⟨.inl hq, hr, hf⟩ n
  exact hseq

/-! ### The handshake with a device that echoes (42 R111, 30 R67) -/

/-- An empty RXF has room for one byte, whatever its capacity (20 R48). -/
theorem State.arrive_of_nil (h : s.rxf = []) (b : Byte) : s.arrive b = { s with rxf := [b] } := by
  unfold State.arrive State.arriveWith
  rw [h]
  rfl

theorem runInstrs_arrive {arrival : Instr} {b : Byte} {l : List Instr} (h : ∀ s, exec arrival s = .next (s.arrive b))
    (hr : s.rxf = []) : runInstrs (arrival :: l) s = runInstrs l { s with rxf := [b] } := by
  rw [runInstrs_cons (h s), State.arrive_of_nil hr]

/-- What the agents do in the handshake: the device echoes SYNC_START and answers SYNC_1 and SYNC_2. -/
def echoedHandshake (i : Instr) : List Instr :=
  [i, .syncStartEcho, i, i, i, .sync1Response, i, i, .syncOkResponse, i, i]

/-- The Core at FS8 after a handshake with a device that echoes, Synced. -/
def State.shaken (o : Label) (s : State) : State :=
  { s with
    sync := .synced, tmpVisit := 0, tmpNavail := 1, tx := s.tx ++ flushBytes ++ [byteSync1] ++ [byteSync2], rxf := []
    resp := byteRespSyncOk, reading := false, seq := .call o .fs8
    hist := s.hist ++ [.tx flushBytes, .avail 1, .rx [byteSyncStart], .tx [byteSync1], .rx [byteRespSync1],
      .tx [byteSync2], .rx [byteRespSyncOk]] }

section
variable {ret : Bool → State → State} {l : List Instr} (hi : SyncsThen i o ret) (hs : s.Executes i)
include hi hs

theorem SyncsThen.exec_fs0 (hq : s.seq = .call o .fs0) : exec i s = .next { s with
    sync := .syncing, tmpVisit := 0, tx := s.tx ++ flushBytes, seq := .call o .fs1
    hist := s.hist ++ [.tx flushBytes] } :=
  (hi .fs0 s hs.doesStep hq).trans (congrArg Host.Outcome.next (State.stepFs0_of_ok hs.noFail o))

theorem SyncsThen.exec_fs1_one {b : Byte} (hq : s.seq = .call o .fs1) (hr : s.rxf = [b]) : exec i s = .next { s with
    tmpNavail := 1, seq := .call o .fs3, hist := s.hist ++ [.avail 1] } := by
  rw [hi.exec_fs1 hs.doesStep hq, State.stepFs1With_of_ok hs.noFail, hr]
  rfl

theorem SyncsThen.exec_read_one {b : Byte} {r : List Byte} (hq : s.seq = .call o c) (hc : isSyncLabel c = true)
    (hn : s.readNeed c = some 1) (hr : s.rxf = b :: r) : exec i s = .next { s with
      rxf := r, resp := b, reading := false, seq := .call o (afterRead c b), hist := s.hist ++ [.rx [b]] } := by
  rw [hi.exec_read hs.doesStep hs.noFail hq hc hn (by rw [hr]; simp), State.readReturns_one hr]

/-- A step that sends one command byte (30 R65). -/
theorem SyncsThen.exec_write {c' : SubLabel} {w : Byte} (hq : s.seq = .call o c)
    (hw : ∀ s, syncSeq o ret c s = .next (s.txWrite [w] (State.goto (.call o c')))) : exec i s = .next { s with
      tx := s.tx ++ [w], seq := .call o c', hist := s.hist ++ [.tx [w]] } := by
  rw [hi c s hs.doesStep hq, hw, State.txWrite_of_ok hs.noFail]
  rfl

/-- FS0 to FS3: the flush, its echo, the poll that counts it and the drain that takes it. -/
theorem SyncsThen.runInstrs_flush (hq : s.seq = .call o .fs0) (hr : s.rxf = []) :
    runInstrs (i :: .syncStartEcho :: i :: i :: l) s = runInstrs l { s with
      sync := .syncing, tmpVisit := 0, tmpNavail := 1, tx := s.tx ++ flushBytes, rxf := [], resp := byteSyncStart
      reading := false, seq := .call o .fs4, hist := s.hist ++ [.tx flushBytes, .avail 1, .rx [byteSyncStart]] } := by
  refine (runInstrs_cons (hi.exec_fs0 hs hq)).trans ?_
  refine Eq.trans (runInstrs_arrive (b := byteSyncStart) (fun _ => rfl) (by exact hr)) ?_
  refine Eq.trans (runInstrs_cons (hi.exec_fs1_one (by exact hs.of_eq rfl) (by rfl) (by rfl))) ?_
  refine Eq.trans (runInstrs_cons (hi.exec_read_one (by exact hs.of_eq rfl) (by rfl) rfl (by rfl) (by rfl))) ?_
  simp only [List.append_assoc]
  rfl

/-- FS4 and FS5, FS6 and FS7: a command byte, the byte the device answers with, and the read that takes it. -/
theorem SyncsThen.runInstrs_exchange {c' : SubLabel} {w b : Byte} {arrival : Instr} (hq : s.seq = .call o c)
    (hr : s.rxf = []) (hw : ∀ s, syncSeq o ret c s = .next (s.txWrite [w] (State.goto (.call o c'))))
    (harrive : ∀ s, exec arrival s = .next (s.arrive b)) (hc : isSyncLabel c' = true)
    (hn : ∀ s : State, s.readNeed c' = some 1) :
    runInstrs (i :: arrival :: i :: l) s = runInstrs l { s with
      tx := s.tx ++ [w], rxf := [], resp := b, reading := false, seq := .call o (afterRead c' b)
      hist := s.hist ++ [.tx [w], .rx [b]] } := by
  refine (runInstrs_cons (hi.exec_write hs hq hw)).trans ?_
  refine Eq.trans (runInstrs_arrive harrive (by exact hr)) ?_
  refine Eq.trans (runInstrs_cons (hi.exec_read_one (by exact hs.of_eq rfl) (by rfl) hc (hn _) (by rfl))) ?_
  simp only [List.append_assoc]
  rfl

theorem SyncsThen.runInstrs_echoed (hq : s.seq = .call o .fs0) (hr : s.rxf = []) :
    runInstrs (echoedHandshake i ++ l) s = runInstrs l (ret true (s.shaken o)) := by
  calc runInstrs (echoedHandshake i ++ l) s
    _ = runInstrs (i :: .sync1Response :: i :: i :: .syncOkResponse :: i :: i :: l) _ := hi.runInstrs_flush hs hq hr
    _ = runInstrs (i :: .syncOkResponse :: i :: i :: l) _ :=
      hi.runInstrs_exchange (c := .fs4) (c' := .fs5) (w := byteSync1) (b := byteRespSync1) (by exact hs.of_eq rfl)
        (by rfl) (by rfl) (fun _ => rfl) (fun _ => rfl) rfl (fun _ => rfl)
    _ = runInstrs (i :: l) _ :=
      hi.runInstrs_exchange (c := .fs6) (c' := .fs7) (w := byteSync2) (b := byteRespSyncOk) (by exact hs.of_eq rfl)
        (by rfl) (by rfl) (fun _ => rfl) (fun _ => rfl) rfl (fun _ => rfl)
    _ = runInstrs l _ := runInstrs_cons (hi .fs8 _ (by exact State.Executes.doesStep (hs.of_eq rfl)) (by rfl))
    _ = runInstrs l (ret true (s.shaken o)) := by
      simp only [State.shaken, List.append_assoc]
      rfl

end

/-- Settles O32: the handshake with a device that echoes, after which FORCE_SYNC completes. -/
theorem forceSyncRun : Obligations.ForceSyncRun := by
  unfold Obligations.ForceSyncRun
  intro s hs hr
  have hx := State.begun_executes_of_linkReady (i := .forceSync) rfl hs
  refine (runInstrs_cons (exec_eq_begun rfl hs rfl rfl)).trans ?_
  refine (syncsThen_forceSyncF0.runInstrs_echoed (l := []) hx rfl hr).trans ?_
  rw [State.complete_eq (op := 0x5#4) ?op (by decide)]
  case op => exact State.cmdOp_of_decode (i := .forceSync) rfl hx.cmd
  simp only [State.shaken, State.begun, List.append_assoc]
  rfl

/-! ### SYNC through the handshake (42 R116, R117) -/

/-- A send within a run, its answer arriving after SP0. -/
theorem SendsThen.runInstrs_eq_of_arrival {p : Payload} {ret : Bool → State → State} {b : Byte} {ok : Bool}
    {v : SyncStatus} {arrival : Instr} {l : List Instr} (hi : SendsThen i o p ret) (hs : s.Executes i)
    (hl : s.link = .opened) (hq : s.seq = .call o .sp0) (hr : s.rxf = [])
    (harrive : ∀ s, exec arrival s = .next (s.arrive b))
    (hv : (ok, v) = if b = 0x90#8 then (true, SyncStatus.synced) else (false, .outOfSync)) :
    runInstrs (i :: arrival :: i :: i :: l) s = runInstrs l (ret ok ((s.sent o p).answered o b [] v)) := by
  obtain ⟨t, h1, h2⟩ := hi.exec_sp1_sp2 (s := { s.sent o p with rxf := [b] }) (hs.of_eq rfl) hl rfl rfl hv
  refine (runInstrs_cons (hi.exec_sp0 hs hl hq)).trans (Eq.trans (runInstrs_arrive harrive (by exact hr)) ?_)
  exact (runInstrs_cons h1).trans (runInstrs_cons h2)

/-- Settles O38: Y0's send fails, Y1's handshake succeeds, and Y2's send gives the result. -/
theorem syncThroughHandshake : Obligations.SyncThroughHandshake := by
  unfold Obligations.SyncThroughHandshake
  intro a b ack s hs ha hr hack
  have harrive : ∀ s, exec ack s = .next (s.arrive b) := by
    simp only [List.mem_cons, Prod.mk.injEq, List.not_mem_nil, or_false] at hack
    rcases hack with ⟨rfl, rfl⟩ | ⟨rfl, rfl⟩ | ⟨rfl, rfl⟩ <;> exact fun _ => rfl
  have hx := State.begun_executes_of_linkReady (i := .sync) rfl hs
  have ⟨_, hl, _⟩ := hs
  refine (runInstrs_cons (exec_eq_begun rfl hs rfl rfl)).trans ?_
  refine (sendsThen_syncY0.runInstrs_eq hx hl rfl hr (if_neg ha).symm).trans ?_
  rw [afterY0_false]
  refine Eq.trans (syncsThen_syncY1.runInstrs_echoed (l := [.sync, ack, .sync, .sync])
    (by exact hx.of_eq rfl) (by rfl) (by rfl)) ?_
  rw [afterY1_true]
  refine Eq.trans (sendsThen_syncY2.runInstrs_eq_of_arrival (by exact hx.of_eq rfl) (by exact hl) (by rfl) (by rfl)
    harrive (verdict_pair b)) ?_
  rw [State.complete_eq (op := 0x6#4) ?op (by decide)]
  case op => exact State.cmdOp_of_decode (i := .sync) rfl hx.cmd
  simp only [State.answered, State.sent, State.shaken, State.begun, buildPacket_neutral, crc8_neutral,
    List.append_assoc, List.cons_append, List.nil_append]
  rfl

end Sys2Proof.Machine

/-! ## Faults of the primitives and the ABORT (60_exceptions R133 to R139) -/

namespace Sys2Proof.Machine

variable {s t : State} {i : Instr} {o : Label} {c : SubLabel}

/-! ### Fault entry by a TransportError -/

/-- Every fault entry appends FAULT to H, and only the first is kept in the registers (60 R134). -/
theorem State.recordFault_eq (f : FaultCode) (q : FaultStep) (s : State) : s.recordFault f q = { s with
    fault := if s.fault = .none then f else s.fault
    faultOp := if s.fault = .none then s.cmdOp else s.faultOp
    faultStep := if s.fault = .none then q else s.faultStep
    hist := s.hist ++ [.fault f] } := by
  unfold State.recordFault
  by_cases h : s.fault = .none <;> simp [h, State.log, State.cmdOp]

theorem seqInD0_call (o : Label) (c : SubLabel) : seqInD0 (.call o c) = decide (o = .d0) := by
  cases o <;> rfl

/-- Outside TEARDOWN's D0 a TransportError ends the command (60 R134). -/
theorem State.transportError_ends (hq : s.seq = .call o c) (ho : o ≠ .d0) : s.transportError = { s with
    fault := if s.fault = .none then .transportError else s.fault
    faultOp := if s.fault = .none then s.cmdOp else s.faultOp
    faultStep := if s.fault = .none then .path (.call o c) else s.faultStep
    sync := .outOfSync, reading := false, result := false, seq := .idle, busy := false
    hist := s.hist ++ [.fault .transportError, .done s.cmdOp false] } := by
  rcases State.transportError_cases s with ⟨hd, -⟩ | ⟨-, e⟩
  · rw [hq, seqInD0_call] at hd
    exact absurd (of_decide_eq_true hd) ho
  · rw [e, State.recordFault_eq, hq, State.endFaulted]
    simp only [List.append_assoc]
    rfl

/-- Inside TEARDOWN's D0 a TransportError leads to D1, with `ok` false (60 R134). -/
theorem State.transportError_teardown (hq : s.seq = .call .d0 c) : s.transportError = { s with
    fault := if s.fault = .none then .transportError else s.fault
    faultOp := if s.fault = .none then s.cmdOp else s.faultOp
    faultStep := if s.fault = .none then .path (.call .d0 c) else s.faultStep
    sync := .outOfSync, reading := false, tmpOk := false, seq := .at .d1
    hist := s.hist ++ [.fault .transportError] } := by
  rcases State.transportError_cases s with ⟨-, e⟩ | ⟨hd, -⟩
  · rw [e, State.recordFault_eq, hq]
  · rw [hq] at hd
    cases hd

/-! ### Each primitive, failing (20_memory R45 to R47) -/

theorem State.txWrite_of_fails (h : s.draw.fails = true) (l : List Byte) (k : State → State) : s.txWrite l k =
    { s with tx := s.tx ++ l.take s.draw.sent, hist := s.hist ++ [Event.txFail l] }.transportError := by
  rcases State.txWrite_cases l k s with ⟨-, e⟩ | ⟨hf, -⟩
  · exact e
  · rw [h] at hf; cases hf

theorem State.stepSp0_of_fails (h : s.draw.fails = true) (o : Label) (p : Payload) : s.stepSp0 o p = { s with
    pktBuf := buildPacket p, crcAcc := (buildPacket p).crc
    tx := s.tx ++ (packetBytes (buildPacket p)).take s.draw.sent
    hist := s.hist ++ [Event.txFail (packetBytes (buildPacket p))] }.transportError :=
  State.txWrite_of_fails (s := { s with pktBuf := buildPacket p, crcAcc := (buildPacket p).crc }) h _ _

theorem State.stepFs0_of_fails (h : s.draw.fails = true) (o : Label) : s.stepFs0 o = { s with
    sync := .syncing, tmpVisit := 0, tx := s.tx ++ flushBytes.take s.draw.sent
    hist := s.hist ++ [Event.txFail flushBytes] }.transportError :=
  State.txWrite_of_fails (s := { s with sync := .syncing, tmpVisit := 0 }) h _ _

theorem State.stepFs1With_of_fails (h : s.draw.fails = true) (bound : Option WaitBound) (o : Label) :
    s.stepFs1With bound o = s.transportError := if_pos h

theorem State.rxRead_of_fails (h : s.draw.fails = true) (o : Label) (c : SubLabel) (n : Nat) :
    s.rxRead o c n = s.transportError := if_pos h

/-- What the failed primitive of the step `c` leaves in PKTBUF, CRCACC and the number of the poll's visit, what it has
sent, and the event it leaves: a failed write the bytes it has sent and TXFAIL, a failed count or read nothing. -/
inductive FailedPrimitive (s : State) : SubLabel → Packet → Byte → Nat → List Byte → List Event → Prop where
  | packet (p : Payload) (hp : s.sendPayload = some p) :
      FailedPrimitive s .sp0 (buildPacket p) (buildPacket p).crc s.tmpVisit
        ((packetBytes (buildPacket p)).take s.draw.sent) [.txFail (packetBytes (buildPacket p))]
  | flush : FailedPrimitive s .fs0 s.pktBuf s.crcAcc 0 (flushBytes.take s.draw.sent) [.txFail flushBytes]
  | sync1 : FailedPrimitive s .fs4 s.pktBuf s.crcAcc s.tmpVisit ([byteSync1].take s.draw.sent) [.txFail [byteSync1]]
  | sync2 : FailedPrimitive s .fs6 s.pktBuf s.crcAcc s.tmpVisit ([byteSync2].take s.draw.sent) [.txFail [byteSync2]]
  | receive (c : SubLabel) (hc : c ∈ [SubLabel.sp1, .fs1, .fs3, .fs5, .fs7]) :
      FailedPrimitive s c s.pktBuf s.crcAcc s.tmpVisit [] []

/-- A step of a called sequence whose primitive fails is the fault entry after what the primitive leaves. -/
def FailsAt (s : State) (c : SubLabel) (x : Out) : Prop :=
  ∃ pkt acc sy visit sent ev, FailedPrimitive s c pkt acc visit sent ev ∧ x = .next { s with
    pktBuf := pkt, crcAcc := acc, sync := sy, tmpVisit := visit, tx := s.tx ++ sent
    hist := s.hist ++ ev }.transportError

theorem failsAt_receive {x : Out} (hc : c ∈ [SubLabel.sp1, .fs1, .fs3, .fs5, .fs7]) (h : x = .next s.transportError) :
    FailsAt s c x :=
  ⟨_, _, s.sync, _, _, _, .receive c hc, by simp only [h, List.append_nil]⟩

theorem sendSeq_fails {p : Payload} (hf : s.draw.fails = true) (hc : c = .sp0 ∨ c = .sp1)
    (hp : c = .sp0 → s.sendPayload = some p) (o : Label) (ret : Bool → State → State) :
    FailsAt s c (sendSeq o p ret c s) := by
  rcases hc with rfl | rfl
  · exact ⟨_, _, s.sync, _, _, _, .packet p (hp rfl), congrArg _ (State.stepSp0_of_fails hf o p)⟩
  · exact failsAt_receive (by decide) (congrArg _ (State.rxRead_of_fails hf o _ _))

theorem syncSeq_fails (hf : s.draw.fails = true) (hc : c ∈ [SubLabel.fs0, .fs1, .fs3, .fs4, .fs5, .fs6, .fs7])
    (o : Label) (ret : Bool → State → State) : FailsAt s c (syncSeq o ret c s) := by
  cases c with
  | fs0 => exact ⟨_, _, _, _, _, _, .flush, congrArg _ (State.stepFs0_of_fails hf o)⟩
  | fs1 => exact failsAt_receive (by decide) (congrArg _ (State.stepFs1With_of_fails hf _ o))
  | fs3 | fs5 | fs7 => exact failsAt_receive (by decide) (congrArg _ (State.rxRead_of_fails hf o _ _))
  | fs4 => exact ⟨_, _, s.sync, _, _, _, .sync1, congrArg _ (State.txWrite_of_fails hf _ _)⟩
  | fs6 => exact ⟨_, _, s.sync, _, _, _, .sync2, congrArg _ (State.txWrite_of_fails hf _ _)⟩
  | sp0 | sp1 | sp2 | fs2 | fs8 | fsx => exact absurd hc (by decide)

theorem CallStep.fails {x : Out} (h : CallStep s o c x) (hf : s.draw.fails = true) (ho : o ≠ .d0)
    (hc : c ∈ [SubLabel.sp0, .sp1, .fs0, .fs1, .fs3, .fs4, .fs5, .fs6, .fs7]) : FailsAt s c x := by
  cases h with
  | send p ret hsend hp => exact sendSeq_fails hf (by clear hp; revert c; decide) hp o ret
  | sync ret hsync => exact syncSeq_fails hf (by revert c; decide) o ret
  | closed _ ho' => exact absurd ho' ho

/-! ### The step of a command that performs a primitive -/

/-- A read in progress has its outcome when it fails or its bytes are in RXF (20 R47). -/
theorem State.readHasOutcome_iff : s.readHasOutcome = true ↔ s.reading = true ∧ ∃ o c n, s.seq = .call o c ∧
    s.readNeed c = some n ∧ (s.draw.fails = true ∨ n ≤ s.rxf.length) := by
  unfold State.readHasOutcome
  rw [Bool.and_eq_true]
  refine and_congr_right fun _ => ?_
  rcases s.seq with _ | l | ⟨o, c⟩
  · simp
  · simp
  · cases hn : s.readNeed c <;> simp [hn]

/-- The executing command is the one its latched descriptor decodes to, and so never RELEASE (30 R75, R77). -/
theorem core_of_latched (hc : s.cmd.map decodeCommand = some i) : i.core = i := by
  obtain ⟨d, -, rfl⟩ := Option.map_eq_some_iff.mp hc
  exact decodeCommand_core d

/-- The executing command does the step of the sequence it called. -/
theorem SeqInv.callStep (h : SeqInv s) (hb : s.busy = true) (hc : s.cmd.map decodeCommand = some i)
    (ha : s.abortDue = true → s.readHasOutcome = true) (hq : s.seq = .call o c) : CallStep s o c (exec i s) := by
  obtain ⟨d, body, e, hstep⟩ := h.exec_call hb hc hq
  have hcore := core_of_latched hc
  have hs : s.DoesStep i := ⟨hb, hcore.symm ▸ hc, ha⟩
  have hrun := hs.runCommand d body
  rw [hcore] at hrun
  rw [e, hrun]
  exact hstep

/-- Settles O41: the step's failed primitive enters the fault, which ends the command; each label has one primitive. -/
theorem failedPrimitiveEndsCommand : Obligations.FailedPrimitiveEndsCommand := by
  unfold Obligations.FailedPrimitiveEndsCommand
  intro i s o c hinv hb hc hf hq ho hmem hread
  have hdue : s.abortDue = true → s.readHasOutcome = true := fun ha => by
    obtain ⟨hr, hm⟩ := hread ha
    obtain ⟨n, hn⟩ : ∃ n, s.readNeed c = some n := by
      simp only [List.mem_cons, List.not_mem_nil, or_false] at hm
      rcases hm with rfl | rfl | rfl | rfl <;> exact ⟨_, rfl⟩
    exact State.readHasOutcome_iff.mpr ⟨hr, o, c, n, hq, hn, .inl hf⟩
  obtain ⟨pkt, acc, sy, visit, sent, ev, hfail, e⟩ := (hinv.callStep hb hc hdue hq).fails hf ho hmem
  refine ⟨pkt, acc, visit, sent, ev, e.trans (congrArg _ (State.transportError_ends (by exact hq) ho)), ?_⟩
  cases hfail with
  | packet p hp => simp [hp]
  | flush => simp [flushBytes, flushCount, byteSyncStart]
  | sync1 => simp [byteSync1]
  | sync2 => simp [byteSync2]
  | receive _ hm =>
    simp only [List.mem_cons, List.not_mem_nil, or_false] at hm
    rcases hm with rfl | rfl | rfl | rfl | rfl <;> simp

/-! ### TEARDOWN -/

/-- TEARDOWN is not aborted (60 R137). -/
theorem State.doesStep_teardown (hb : s.busy = true) (hc : s.cmd.map decodeCommand = some .teardown) :
    s.DoesStep .teardown :=
  ⟨hb, hc, fun h => absurd (State.cmdOp_of_decode rfl hc) (State.abortDue_true hb h).2⟩

/-- D1 closes the link and completes, and an ABORT_REQ raised meanwhile is cleared (42 R121, 60 R137). -/
theorem exec_teardown_closes (hs : s.DoesStep .teardown) (hq : s.seq = .at .d1) : exec .teardown s = .next { s with
    link := .closed, result := s.tmpOk, busy := false, seq := .idle, abortReq := false
    hist := s.hist ++ [.close, .done 0x9#4 s.tmpOk] } := by
  have hop : s.closeLink.cmdOp = 0x9#4 := State.cmdOp_of_decode rfl hs.cmd
  refine (hs.runCommand _ _).trans ?_
  unfold stepTeardown
  rw [hq]
  dsimp only
  rw [State.complete, hop, State.closeLink_hist, List.append_assoc]
  simp [State.closeLink, opTeardown]

/-- After the fault entry inside D0, D1 closes the link with RESULT 0 (60 R134, 42 R121). -/
theorem exec_teardown_of_transportError (hb : s.busy = true) (hc : s.cmd.map decodeCommand = some .teardown)
    (hq : s.seq = .call .d0 c) : exec .teardown s.transportError = .next { s with
      fault := if s.fault = .none then .transportError else s.fault
      faultOp := if s.fault = .none then 0x9#4 else s.faultOp
      faultStep := if s.fault = .none then .path (.call .d0 c) else s.faultStep
      sync := .outOfSync, reading := false, link := .closed, tmpOk := false, result := false, busy := false
      seq := .idle, abortReq := false, hist := s.hist ++ [.fault .transportError, .close, .done 0x9#4 false] } := by
  have hop : s.cmdOp = 0x9#4 := State.cmdOp_of_decode rfl hc
  rw [State.transportError_teardown hq, hop]
  refine (exec_teardown_closes (State.doesStep_teardown (by exact hb) (by exact hc)) (by rfl)).trans ?_
  simp only [List.append_assoc]
  rfl

/-- Settles O42: the fault entry inside D0 leads to D1 with `ok` false, and D1 closes the link. -/
theorem teardownClosesAfterFailure : Obligations.TeardownClosesAfterFailure := by
  unfold Obligations.TeardownClosesAfterFailure
  intro s hb hc hl hf
  have hs := State.doesStep_teardown hb hc
  refine ⟨fun hq => ⟨_, (sendsThen_teardownD0 .sp0 s hs hl hq).trans
      (congrArg Host.Outcome.next (State.stepSp0_of_fails hf .d0 neutralPayload)), ?write⟩,
    fun hq => ⟨_, (sendsThen_teardownD0 .sp1 s hs hl hq).trans
      (congrArg Host.Outcome.next (State.rxRead_of_fails hf .d0 .sp1 1)), ?read⟩⟩
  case write =>
    refine (exec_teardown_of_transportError (by exact hb) (by exact hc) (by exact hq)).trans ?_
    simp only [List.append_assoc, buildPacket_neutral]
    rfl
  case read => exact exec_teardown_of_transportError hb hc hq

/-! ### The ABORT (60 R137 to R139) -/

/-- An ABORT taken by a Core that executes a command (60 R138). -/
theorem State.takeAbort_executing (hb : s.busy = true) : s.takeAbort = { s with
    hist := s.hist ++ [.done s.cmdOp false], result := false, abortReq := false, aborted := true, sync := .outOfSync
    reading := false, cmd := some (Descriptor.blank opTeardown), busy := true, seq := .call .d0 .sp0 } := by
  unfold State.takeAbort
  rw [if_pos hb]

theorem exec_eq_runCommand {d : Descriptor} (hd : encodeCommand i = some d) (s : State) :
    ∃ body, exec i s = runCommand i.core d body s := by
  cases i <;> cases hd <;> exact ⟨_, rfl⟩

/-- A due ABORT is taken before the step SEQ names, unless a read in progress has its outcome (60 R137, R139). -/
theorem exec_takes_abort (hb : s.busy = true) (hc : s.cmd.map decodeCommand = some i) (ha : s.abortDue = true)
    (hr : s.readHasOutcome = false) : exec i s = .next s.takeAbort := by
  have hcore := core_of_latched hc
  obtain ⟨c, -, rfl⟩ := Option.map_eq_some_iff.mp hc
  obtain ⟨d, hd⟩ := Option.ne_none_iff_exists'.mp (decodeCommand_isCommand c)
  obtain ⟨body, e⟩ := exec_eq_runCommand hd s
  rw [e, hcore]
  unfold runCommand
  rw [if_pos hb, if_pos hc, ha, hr]
  rfl

theorem decodeCommand_of_teardown {d : Descriptor} (h : d.op = opTeardown) : decodeCommand d = .teardown := by
  unfold decodeCommand
  rw [h]
  rfl

theorem State.complete_abortReq_cases (ok : Bool) (s : State) :
    (s.complete ok).abortReq = s.abortReq ∨ (s.complete ok).abortReq = false ∧ (s.complete ok).busy = false := by
  cases h : s.cmdOp == opTeardown <;> simp [State.complete, h]

@[simp] theorem State.transportError_aborted (s : State) : s.transportError.aborted = s.aborted := by
  obtain ⟨f, op, st, q, b, ok, r, ev, h, -⟩ := State.transportError_effect s
  rw [h]

@[simp] theorem State.transportError_abortReq (s : State) : s.transportError.abortReq = s.abortReq := by
  obtain ⟨f, op, st, q, b, ok, r, ev, h, -⟩ := State.transportError_effect s
  rw [h]

/-- A step that reads does its read (20 R53). -/
theorem CallStep.eq_rxRead {n : Nat} {x : Out} (h : CallStep s o c x) (hn : s.readNeed c = some n) :
    x = .next (s.rxRead o c n) := by
  cases h with
  | send p ret hc => exact sendSeq_read hc hn o p ret
  | sync ret hc => exact syncSeq_read hc hn o ret
  | closed hc => subst hc; cases hn

/-- A pending ABORT is due while a command other than TEARDOWN executes (60 R137). -/
theorem State.abortDue_of_ne_teardown (hb : s.busy = true) (hc : s.cmd.map decodeCommand = some i)
    (ha : s.abortReq = true) (hi : i ≠ .teardown) : s.abortDue = true := by
  obtain ⟨d, hd, rfl⟩ := Option.map_eq_some_iff.mp hc
  have hop : d.op ≠ opTeardown := fun h => hi (decodeCommand_of_teardown h)
  simp [State.abortDue, State.inTeardown, State.cmdOp, hb, ha, hd, hop]

/-- TEARDOWN's steps leave STATUS.ABORTED, and ABORT_REQ but for the completion, which may clear it (60 R137). -/
theorem CommandEffect.keepsAbort (h : CommandEffect s t) :
    t.aborted = s.aborted ∧ (t.abortReq = s.abortReq ∨ (t.abortReq = false ∧ t.busy = false)) := by
  cases h with
  | writeFails => simp
  | readFails => simp
  | computes => exact ⟨rfl, State.complete_abortReq_cases _ _⟩
  | verdictEnds => exact ⟨rfl, State.complete_abortReq_cases _ _⟩
  | teardownEnds => exact ⟨rfl, State.complete_abortReq_cases _ _⟩
  | closes => exact ⟨rfl, State.complete_abortReq_cases _ _⟩
  | _ => exact ⟨rfl, .inl rfl⟩

/-- Settles O43: the frame of a command takes a due ABORT first, and TEARDOWN's frame finds none due. -/
theorem abortTaken : Obligations.AbortTaken := by
  unfold Obligations.AbortTaken
  refine ⟨fun i s hb hc ha hi hread => ?executing, fun i s o b r hinv hb hc hr hf hrxf hq => ?reading,
    fun d s hb hp ha => ?idle, fun s hb hc => ⟨fun t ht => ?teardown, fun hq => ?d1⟩⟩
  case executing =>
    have hout : s.readHasOutcome = false := Bool.eq_false_iff.mpr fun h => by
      obtain ⟨hr, o, c, n, hq, hn, hdone⟩ := State.readHasOutcome_iff.mp h
      obtain ⟨hf, hlt⟩ := hread hr
      rcases hdone with hfail | hle
      · rw [hf] at hfail; cases hfail
      · exact absurd (hlt o c n hq hn) (by omega)
    rw [exec_takes_abort hb hc (State.abortDue_of_ne_teardown hb hc ha hi) hout, State.takeAbort_executing hb]
    rfl
  case reading =>
    have hout : s.readHasOutcome = true :=
      State.readHasOutcome_iff.mpr ⟨hr, o, .sp1, 1, hq, rfl, .inr (by rw [hrxf]; simp)⟩
    rw [(hinv.callStep hb hc (fun _ => hout) hq).eq_rxRead rfl, State.rxRead_of_cons hf hrxf]
  case idle =>
    unfold runMove
    rw [fetchInstr_core_none (by rw [hb]; exact hp)]
    unfold otherMove
    dsimp only
    rw [if_neg (by rw [hb]; decide), if_pos ha]
    exact congrArg Host.Outcome.next (State.takeAbort_idle (s := { s with draw := d }) hb)
  case teardown =>
    have hbody : stepTeardown s = .next t := ((State.doesStep_teardown hb hc).runCommand _ _).symm.trans ht
    exact (command_effects (stepTeardown_steps hbody)).keepsAbort
  case d1 => exact exec_teardown_closes (State.doesStep_teardown hb hc) hq

end Sys2Proof.Machine

/-! ## The premises about the Environment and the run of a Host program (60_exceptions R150) -/

namespace Sys2Proof.Machine

variable {s t : State} {b c : Bench} {pr : Premises} {p : List Descriptor} {ms : List Move} {owed : List Byte}

/-! ### What the premises keep of a move (60 R150, 30 R76) -/

/-- The bench after an allowed move that takes the machine to `t`. -/
def Bench.after (b : Bench) (m : Move) (t : State) : Bench :=
  let r := b.premises.owes (writesOf (t.hist.drop b.st.hist.length))
  { premises := r.2, program := b.programAfter m, owed := b.owedAfter m ++ r.1, st := t }

theorem Bench.step_eq_some_iff {m : Move} : b.step m = some c ↔
    b.allows m = true ∧ ∃ t, runMove m b.st = .next t ∧ b.after m t = c := by
  unfold Bench.step Bench.after
  by_cases ha : b.allows m = true
  · rw [if_pos ha]
    cases runMove m b.st <;> simp [ha]
  · simp [ha]

/-- Every arriving byte, named or not, arrives at the tail of RXF (20 R48). -/
theorem runMove_arrive (x : Byte) (s : State) : runMove (.arrive x) s = .next (s.arrive x) := by
  cases ha : arrivalInstr x with
  | some i => exact (runMove_of_fetchInstr (fetchInstr_arrive ha)).trans (exec_arrivalInstr ha s)
  | none => simp only [runMove, fetchInstr, ha, Option.map_none, otherMove]

@[simp] theorem State.arrive_hist (x : Byte) (s : State) : (s.arrive x).hist = s.hist := State.arriveWith_hist _ _ _

/-- A move that leaves H adds nothing to what is owed, and leaves the premises. -/
theorem Bench.after_of_hist {m : Move} (h : t.hist = b.st.hist) : b.after m t =
    { premises := b.premises, program := b.programAfter m, owed := b.owedAfter m, st := t } := by
  unfold Bench.after
  rw [h, List.drop_length]
  simp [writesOf, Premises.owes]

theorem Bench.allows_arrive {x : Byte} (hs : b.premises.scripted = true) (h : b.allows (.arrive x) = true) :
    b.owed = x :: b.owed.tail := by
  have hhead : b.owed.head? = some x := by simpa [Bench.allows, hs] using h
  exact (List.cons_head?_tail hhead).symm

theorem Bench.allows_present {d : Descriptor} (h : b.allows (.present d) = true) :
    b.program = d :: b.program.tail ∧ b.st.port = none ∧ b.st.busy = false := by
  obtain ⟨⟨hhead, hport⟩, hbusy⟩ : (b.program.head? = some d ∧ b.st.port = none) ∧ b.st.busy = false := by
    simpa [Bench.allows] using h
  exact ⟨(List.cons_head?_tail hhead).symm, hport, hbusy⟩

theorem Bench.allows_core {d : Draw} (h : b.allows (.core d) = true) :
    (b.premises.noTransportError = true → d.fails = false) ∧ b.owed = [] := by
  obtain ⟨hfail, howed⟩ : (b.premises.noTransportError = false ∨ d.fails = false) ∧ b.owed = [] := by
    simpa [Bench.allows] using h
  exact ⟨fun hn => by simpa [hn] using hfail, howed⟩

theorem Bench.allows_timeout (hr : b.premises.respondsInTime = true) (h : b.allows .timeout = true) : b.owed = [] := by
  simpa [Bench.allows, hr] using h

/-! ### One move of a run -/

theorem Bench.run_cons {m : Move} (h : b.step m = some c) : Bench.run (m :: ms) b = Bench.run ms c := by
  rw [Bench.run, h]

/-- The Host presents the next descriptor of its program to an idle Core (30 R76). -/
theorem Bench.run_present {d : Descriptor} (hb : s.busy = false) (hp : s.port = none) :
    Bench.run (.present d :: ms) ⟨pr, d :: p, [], s⟩ = Bench.run ms ⟨pr, p, [], { s with port := some d }⟩ := by
  refine Bench.run_cons (Bench.step_eq_some_iff.mpr ⟨by simp [Bench.allows, hb, hp], _, ?_, Bench.after_of_hist rfl⟩)
  simp [runMove, fetchInstr, otherMove, State.presentOnPort, hp]

/-- The one owed byte arrives in an empty RXF. -/
theorem Bench.run_arrive {x : Byte} (hr : s.rxf = []) :
    Bench.run (.arrive x :: ms) ⟨pr, p, [x], s⟩ = Bench.run ms ⟨pr, p, [], { s with rxf := [x] }⟩ := by
  refine Bench.run_cons (Bench.step_eq_some_iff.mpr ⟨by simp [Bench.allows], _, ?_, Bench.after_of_hist rfl⟩)
  rw [runMove_arrive, State.arrive_of_nil hr]

/-- A Core move that appends the events `ev`, after which the script owes `owed`. -/
theorem Bench.run_core {d : Draw} {ev : List Event} (hd : d.fails = false) (h : runMove (.core d) s = .next t)
    (hh : t.hist = s.hist ++ ev) (ho : pr.owes (writesOf ev) = (owed, pr)) :
    Bench.run (.core d :: ms) ⟨pr, p, [], s⟩ = Bench.run ms ⟨pr, p, owed, t⟩ := by
  refine Bench.run_cons (Bench.step_eq_some_iff.mpr ⟨by simp [Bench.allows, hd], t, h, ?_⟩)
  unfold Bench.after
  rw [hh, List.drop_left, ho]
  rfl

/-! ### What ECHO_SYNC owes (60 R150) -/

theorem Premises.owes_flush (he : pr.echoSync = true) : pr.owes [flushBytes] = ([byteSyncStart], pr) := by
  simp [Premises.owes, Premises.answers, he]

theorem Premises.owes_sync1 (he : pr.echoSync = true) : pr.owes [[byteSync1]] = ([byteRespSync1], pr) := by
  have hne : [byteSync1] ≠ flushBytes := by decide
  simp [Premises.owes, Premises.answers, he, hne]

theorem Premises.owes_sync2 (he : pr.echoSync = true) : pr.owes [[byteSync2]] = ([byteRespSyncOk], pr) := by
  have hne : [byteSync2] ≠ flushBytes ∧ [byteSync2] ≠ [byteSync1] := by decide
  simp [Premises.owes, Premises.answers, he, hne]

/-! ### FORCE_SYNC under ECHO_SYNC (42 R115) -/

theorem State.Executes.withDraw {i : Instr} {d : Draw} (h : s.Executes i) (hd : d.fails = false) :
    ({ s with draw := d } : State).Executes i := ⟨h.busy, h.cmd, h.noAbort, hd⟩

/-- A Core move runs the executing command (30 R74). -/
theorem State.Executes.runMove_core {i : Instr} (h : s.Executes i) (d : Draw) :
    runMove (.core d) s = exec i.core { s with draw := d } := by
  obtain ⟨e, he, hdec⟩ := Option.map_eq_some_iff.mp h.cmd
  rw [runMove_of_fetchInstr (fetchInstr_core_busy h.busy he), hdec]

theorem decodeCommand_of_forceSync {d : Descriptor} (h : d.op = 0x5#4) : decodeCommand d = .forceSync := by
  unfold decodeCommand
  rw [h]
  rfl

section
variable {d d1 d2 : Draw} {c c' : SubLabel} (hx : s.Executes .forceSync)
include hx

/-- A Core move of FORCE_SYNC that writes nothing owes nothing. -/
theorem Bench.run_silent {e : Event} (hd : d.fails = false) (h : exec .forceSync { s with draw := d } = .next t)
    (hh : t.hist = s.hist ++ [e]) (hw : writesOf [e] = []) :
    Bench.run (.core d :: ms) ⟨pr, p, [], s⟩ = Bench.run ms ⟨pr, p, [], t⟩ :=
  Bench.run_core hd ((hx.runMove_core d).trans h) hh (by rw [hw]; rfl)

/-- FS0 to FS3: the flush, its echo, the poll that counts it and the drain that takes it. -/
theorem Bench.run_flush (he : pr.echoSync = true) (hd : d.fails = false) (hd1 : d1.fails = false)
    (hd2 : d2.fails = false) (hq : s.seq = .call .f0 .fs0) (hr : s.rxf = []) :
    Bench.run (.core d :: .arrive byteSyncStart :: .core d1 :: .core d2 :: ms) ⟨pr, p, [], s⟩ =
      Bench.run ms ⟨pr, p, [], { s with
        sync := .syncing, tmpVisit := 0, tmpNavail := 1, tx := s.tx ++ flushBytes, rxf := [], resp := byteSyncStart
        reading := false, seq := .call .f0 .fs4, draw := d2
        hist := s.hist ++ [.tx flushBytes, .avail 1, .rx [byteSyncStart]] }⟩ := by
  have hi := syncsThen_forceSyncF0
  have hx0 := hx.withDraw hd
  refine (Bench.run_core hd ((hx.runMove_core d).trans (hi.exec_fs0 hx0 hq)) rfl (Premises.owes_flush he)).trans ?_
  refine (Bench.run_arrive (by exact hr)).trans ?_
  refine (Bench.run_silent (by exact hx0.of_eq rfl) hd1
    (hi.exec_fs1_one (by exact (hx.withDraw hd1).of_eq rfl) (by rfl) (by rfl)) rfl rfl).trans ?_
  refine (Bench.run_silent (by exact (hx.withDraw hd1).of_eq rfl) hd2
    (hi.exec_read_one (by exact (hx.withDraw hd2).of_eq rfl) (by rfl) rfl (by rfl) (by rfl)) rfl rfl).trans ?_
  simp only [List.append_assoc]
  rfl

/-- FS4 and FS5, FS6 and FS7: a command byte, the byte the script owes for it, and the read that takes it. -/
theorem Bench.run_exchange {w x : Byte} (hd : d.fails = false) (hd1 : d1.fails = false) (hq : s.seq = .call .f0 c)
    (hr : s.rxf = []) (hw : ∀ s, syncSeq .f0 State.complete c s = .next (s.txWrite [w] (State.goto (.call .f0 c'))))
    (ho : pr.owes [[w]] = ([x], pr)) (hc : isSyncLabel c' = true) (hn : ∀ s : State, s.readNeed c' = some 1) :
    Bench.run (.core d :: .arrive x :: .core d1 :: ms) ⟨pr, p, [], s⟩ = Bench.run ms ⟨pr, p, [], { s with
      tx := s.tx ++ [w], rxf := [], resp := x, reading := false, seq := .call .f0 (afterRead c' x), draw := d1
      hist := s.hist ++ [.tx [w], .rx [x]] }⟩ := by
  have hi := syncsThen_forceSyncF0
  have hx0 := hx.withDraw hd
  refine (Bench.run_core hd ((hx.runMove_core d).trans (hi.exec_write hx0 hq hw)) rfl ho).trans ?_
  refine (Bench.run_arrive (by exact hr)).trans ?_
  refine (Bench.run_silent (by exact hx0.of_eq rfl) hd1
    (hi.exec_read_one (by exact (hx.withDraw hd1).of_eq rfl) (by rfl) hc (hn _) (by rfl)) rfl rfl).trans ?_
  simp only [List.append_assoc]
  rfl

/-- FS8: Synced, and FORCE_SYNC completes with RESULT 1. -/
theorem Bench.run_fs8 (hd : d.fails = false) (hq : s.seq = .call .f0 .fs8) :
    Bench.run (.core d :: ms) ⟨pr, p, [], s⟩ = Bench.run ms ⟨pr, p, [], { s with
      sync := .synced, result := true, busy := false, seq := .idle, draw := d
      hist := s.hist ++ [.done 0x5#4 true] }⟩ := by
  have hx0 := hx.withDraw hd
  have hop : s.cmdOp = 0x5#4 := State.cmdOp_of_decode (i := .forceSync) rfl hx.cmd
  refine Bench.run_silent hx hd ((syncsThen_forceSyncF0 .fs8 _ hx0.doesStep hq).trans ?_) rfl rfl
  exact congrArg Host.Outcome.next
    (State.complete_eq (s := { s with draw := d, sync := .synced }) hop (by decide) true)

end

/-- FORCE_SYNC's descriptor leaves the port of an idle Core and is latched as it was presented (30 R74). -/
theorem exec_forceSync_of_port {d : Descriptor} (hs : s.linkReady) (hp : s.port = some d) (hop : d.op = 0x5#4) :
    exec .forceSync s = .next { s with cmd := some d, port := none, busy := true, seq := .call .f0 .fs0 } := by
  have hoffered := State.offered_of_port (d := Descriptor.blank 0x5#4) hp
  have hafter := State.portAfter_of_port hp
  rw [decodeCommand_of_forceSync hop] at hoffered hafter
  rw [exec_eq_begun rfl hs rfl rfl, State.begun, Instr.core_of_ne_release (by decide), hoffered, hafter]
  rfl

/-- The run of a program of one FORCE_SYNC under ECHO_SYNC, with the state it ends in (42 R115, 60 R150). -/
theorem Bench.run_forceSync {m : Nat → Draw} {d : Descriptor} (he : pr.echoSync = true) (hs : s.idleReady)
    (hl : s.link = .opened) (hr : s.rxf = []) (hp : s.port = none) (hop : d.op = 0x5#4)
    (hm : ∀ k, (m k).fails = false) :
    Bench.run [.present d, .core (m 0), .core (m 1), .arrive byteSyncStart, .core (m 2), .core (m 3), .core (m 4),
        .arrive byteRespSync1, .core (m 5), .core (m 6), .arrive byteRespSyncOk, .core (m 7), .core (m 8)]
        ⟨pr, [d], [], s⟩ = some ⟨pr, [], [], { s with
      cmd := some d, port := none, sync := .synced, tmpVisit := 0, tmpNavail := 1
      tx := s.tx ++ flushBytes ++ [byteSync1] ++ [byteSync2], rxf := [], resp := byteRespSyncOk, reading := false
      result := true, busy := false, seq := .idle, draw := m 8
      hist := s.hist ++ [.tx flushBytes, .avail 1, .rx [byteSyncStart], .tx [byteSync1], .rx [byteRespSync1],
        .tx [byteSync2], .rx [byteRespSyncOk], .done 0x5#4 true] }⟩ := by
  obtain ⟨hb, hf, ha⟩ := hs
  have haccept : runMove (.core (m 0)) { s with port := some d } = .next { s with
      cmd := some d, port := none, busy := true, seq := .call .f0 .fs0, draw := m 0 } := by
    rw [runMove_of_fetchInstr (fetchInstr_core_idle (by exact hb) rfl), decodeCommand_of_forceSync hop]
    exact exec_forceSync_of_port (s := { s with port := some d, draw := m 0 }) ⟨⟨hb, hf, ha⟩, hl, hm 0⟩ rfl hop
  have hx : ({ s with
      cmd := some d, port := none, busy := true, seq := .call .f0 .fs0, draw := m 0 } : State).Executes .forceSync :=
    ⟨rfl, congrArg some (decodeCommand_of_forceSync hop), by simp [State.abortDue, ha], hm 0⟩
  refine (Bench.run_present hb hp).trans ?_
  refine (Bench.run_core (ev := []) (hm 0) haccept (List.append_nil _).symm rfl).trans ?_
  refine (Bench.run_flush hx he (hm 1) (hm 2) (hm 3) rfl hr).trans ?_
  refine (Bench.run_exchange (c := .fs4) (c' := .fs5) (w := byteSync1) (by exact (hx.withDraw (hm 3)).of_eq rfl)
    (hm 4) (hm 5) (by rfl) (by rfl) (fun _ => rfl) (Premises.owes_sync1 he) rfl (fun _ => rfl)).trans ?_
  refine (Bench.run_exchange (c := .fs6) (c' := .fs7) (w := byteSync2) (by exact (hx.withDraw (hm 5)).of_eq rfl)
    (hm 6) (hm 7) (by rfl) (by rfl) (fun _ => rfl) (Premises.owes_sync2 he) rfl (fun _ => rfl)).trans ?_
  refine (Bench.run_fs8 (by exact (hx.withDraw (hm 7)).of_eq rfl) (hm 8) (by rfl)).trans ?_
  simp only [List.append_assoc]
  rfl

/-- Settles O60: a premise keeps a move by what `Bench.allows` asks of it, and the program's run is that of FORCE_SYNC
with the bytes ECHO_SYNC owes. -/
theorem echoSyncBench : Obligations.EchoSyncBench := by
  unfold Obligations.EchoSyncBench
  refine ⟨fun b c m h => ?premises, fun acks inTime m d s hs hl hr hp hop hm => ?run⟩
  case premises =>
    obtain ⟨hallows, t, ht, rfl⟩ := Bench.step_eq_some_iff.mp h
    refine ⟨?fails, ?script, ?core, ?timeout, ?present⟩
    case fails => rintro hn d rfl; exact (Bench.allows_core hallows).1 hn
    case script =>
      rintro hscript x rfl
      cases (runMove_arrive x b.st).symm.trans ht
      rw [Bench.after_of_hist (State.arrive_hist x b.st)]
      exact Bench.allows_arrive (by simpa [Premises.scripted, Option.isSome_iff_ne_none] using hscript) hallows
    case core => rintro howed d rfl; exact howed (Bench.allows_core hallows).2
    case timeout => rintro hin howed rfl; exact howed (Bench.allows_timeout hin hallows)
    case present => rintro d rfl; exact Bench.allows_present hallows
  case run =>
    refine ⟨_, Bench.run_forceSync rfl hs hl hr hp hop hm, rfl, ?final, rfl, rfl, rfl, rfl, rfl, rfl⟩
    obtain ⟨-, hf, ha⟩ := hs
    simp [Bench.final, Bench.ended, hf, ha]

end Sys2Proof.Machine

/-! ## What reset leaves (70_reset_and_hazards R151, R152) -/

namespace Sys2Proof.Machine

variable {s : State}

/-- An idle Core with no command presented and no ABORT pending waits: its move draws and does nothing else
(30 R74, 70 R151). -/
theorem runMove_core_waits (d : Draw) (hb : s.busy = false) (hp : s.port = none) (ha : s.abortReq = false) :
    runMove (.core d) s = .next { s with draw := d } := by
  have hidle : ¬ s.busy = true := Bool.eq_false_iff.mp hb
  have hquiet : ¬ s.abortReq = true := Bool.eq_false_iff.mp ha
  unfold runMove
  rw [fetchInstr_core_none (by rw [if_neg hidle]; exact hp)]
  unfold otherMove
  dsimp only
  rw [if_neg hidle, if_neg hquiet]

/-- STATREG after a reset: LINK is Open and every other field 0 (10 R35, R41). -/
theorem State.resetCore_statReg (s : State) : s.resetCore.statReg = 0x0004#16 :=
  calc s.resetCore.statReg
    _ = State.reset.statReg := rfl
    _ = 0x0004#16 := by decide

/-- Settles O58: reset's next state is `State.resetCore`, whose registers are the constants of R41, so that the Core is
idle with no ABORT pending and waits while the port is empty. -/
theorem resetLeaves : Obligations.ResetLeaves := by
  unfold Obligations.ResetLeaves
  intro s
  have hwaits : s.port = none → ∀ d, runMove (.core d) s.resetCore = .next { s.resetCore with draw := d } :=
    fun hp d => runMove_core_waits d rfl hp rfl
  -- One line for each of: STATUS, the fault registers and the verdict; the data registers and SEQ; CMD and the OUT
  -- registers; ABORT_REQ, H and STATREG; the two streams and the wait.
  exact ⟨s.resetCore, rfl,
    rfl, rfl, rfl, rfl, rfl, rfl, rfl, rfl,
    rfl, rfl, rfl, rfl,
    rfl, rfl, rfl, rfl, rfl, rfl,
    rfl, rfl, s.resetCore_statReg,
    rfl, rfl, hwaits⟩

end Sys2Proof.Machine
